-- ==== Sys2Proof/Word.lean ====
section
/-!
DEFINITION. The value types of the engine: bytes of buffer memory, 32-bit register words and byte sequences
(00_scope.md R10 to R12).
-/

namespace Sys2Proof

/-- One byte of buffer memory (R40). -/
abbrev Byte := BitVec 8

/-- One register word; every register is 32 bits wide (R9 REG_WIDTH, R31). -/
abbrev Word := BitVec 32

/-- A byte sequence `s[0] .. s[len(s)-1]` (R12). -/
abbrev Bytes := List Byte

end Sys2Proof
end

