-- ==== Sys2Proof/Machine/Bits.lean ====
section
/-!
DEFINITION. Byte order and bit order: big-endian values (00_scope.md R12) and MSB-first bit strings (20_memory.md
R75). Every data format of the commands is built from these.
-/

namespace Sys2Proof.Machine

/-- `be(s)`: the big-endian value of a byte sequence, `s[0]` most significant (R12). -/
def be : Bytes → Nat
  | [] => 0
  | b :: rest => b.toNat * 256 ^ rest.length + be rest

/-- `to_be_N(v)` for `N = 8 * n`: the `n`-byte big-endian sequence of the low `8 * n` bits of `v` (R12). -/
def toBe : Nat → Nat → Bytes
  | 0, _ => []
  | n + 1, v => BitVec.ofNat 8 (v / 256 ^ n) :: toBe n v

/-- The eight bits of a byte, bit 7 first (R75). -/
def bitsOfByte (b : Byte) : List Bool :=
  (List.range 8).map (fun i => b.getLsbD (7 - i))

/-- The bit string of a byte sequence: bit `p` is bit `7 - p mod 8` of byte `p / 8` (R164, R209). -/
def bitsOfBytes (s : Bytes) : List Bool := s.flatMap bitsOfByte

/-- A bit string followed by the zero bits that fill its last byte (R206). -/
def padToByte (bits : List Bool) : List Bool :=
  bits ++ List.replicate ((8 - bits.length % 8) % 8) false

/-- The value of a bit string, first bit most significant. -/
def valueOfBits (bits : List Bool) : Nat :=
  bits.foldl (fun acc b => 2 * acc + b.toNat) 0

/-- The bytes of a bit string of whole bytes, the first bit of each eight in bit 7 (R206). -/
def bytesOfBits (bits : List Bool) : Bytes :=
  (List.range (bits.length / 8)).map
    (fun j => BitVec.ofNat 8 (valueOfBits ((bits.drop (8 * j)).take 8)))

end Sys2Proof.Machine
end

