-- ==== Sys2Proof/Config.lean ====
section
/-!
DEFINITION. What a build of the engine fixes: the buffer-memory size and the Feistel tables (00_scope.md R9,
43_feistel.md R261). The spec leaves them as parameters; which values are legal is in WellFormed.lean, and the
spec's default values are in Machine/Tables.lean. LATENCY, the third parameter of R9, is not here: it is the
schedule `State.turns` (assumption 14). The model's free value `Config.freeOutcome` stands in Machine/Flags.lean, beside the
type of its values.
-/

namespace Sys2Proof

/-- The configuration of one build (R9, R48). Table entries are in the DES numbering of R11 and R241: entry `k`
names bit `k` counted from 1 at the most significant end. -/
structure Config where
  /-- BUF_SIZE, the number of buffer-memory cells (R9). -/
  bufSize : Nat
  /-- FEI_IP, the initial permutation (R257, R262). -/
  ip : List Nat
  /-- FEI_PC1, the 56-bit extraction permutation (R250, R263). -/
  pc1 : List Nat
  /-- FEI_PC2, the 48-bit compression permutation (R250, R264). -/
  pc2 : List Nat
  /-- FEI_E, the 32 to 48-bit expansion (R253, R265). -/
  expansion : List Nat
  /-- FEI_P, the 32-bit output permutation (R255, R266). -/
  pout : List Nat
  /-- FEI_S[1] to FEI_S[8], each four rows of 16 entries (R254, R267, R268). -/
  sboxes : List (List (List Nat))
deriving DecidableEq, Repr

end Sys2Proof
end

