-- ==== Sys2Proof/Syntax.lean ====
section
/-!
DEFINITION. The six commands of the engine, one constructor per row of the opcode table (30_encoding.md R101).
A command has no register-number fields and no immediates: its operands are registers (R100, R104, R105), so no
constructor carries an argument.
-/

namespace Sys2Proof

/-- A command word's meaning (R101). -/
inductive Instr where
  /-- FEI_ENC: Encrypt with cipher selector des-class (R271). -/
  | feiEnc
  /-- FEI_DEC: Decrypt with cipher selector des-class (R273). -/
  | feiDec
  /-- LZW_COMP: Compress with compression selector lzw (R166). -/
  | lzwComp
  /-- LZW_DECOMP: Decompress with compression selector lzw (R168). -/
  | lzwDecomp
  /-- HUFF_COMP: Compress with compression selector huffman (R207). -/
  | huffComp
  /-- HUFF_DECOMP: Decompress with compression selector huffman (R208). -/
  | huffDecomp
deriving DecidableEq, Repr

end Sys2Proof
end

