-- ==== Sys2Proof/WellFormed.lean ====
section
/-!
DEFINITION. What is well formed: a command always (it has no operand that could be out of range, 30_encoding.md
R105), and a configuration when it meets every constraint of 00_scope.md R9 and 43_feistel.md R261.
-/

namespace Sys2Proof

/-- Every command is well formed: it carries no field (R100, R105). -/
def Instr.wf : Instr → Bool
  | .feiEnc => true
  | .feiDec => true
  | .lzwComp => true
  | .lzwDecomp => true
  | .huffComp => true
  | .huffDecomp => true

/-- A table of `count` entries, each in `1..hi` (the "entries" and "each entry" columns of R261). -/
def tableInRange (count hi : Nat) (t : List Nat) : Bool :=
  t.length == count && t.all (fun k => Nat.ble 1 k && Nat.ble k hi)

/-- No entry of the table is repeated (the "constraint" column of R261). -/
def noRepeat : List Nat → Bool
  | [] => true
  | k :: rest => !rest.contains k && noRepeat rest

/-- One S-box: 4 rows of 16 entries, each in `0..15` (R261). -/
def sboxInRange (box : List (List Nat)) : Bool :=
  box.length == 4 && box.all (fun row => row.length == 16 && row.all (fun v => Nat.ble v 15))

/-- `1 <= BUF_SIZE <= 2^32` (R9). -/
def Config.bufSizeOk (c : Config) : Bool :=
  Nat.ble 1 c.bufSize && Nat.ble c.bufSize (2 ^ 32)

/-- FEI_IP is a permutation of `1..64` (R261). -/
def Config.ipOk (c : Config) : Bool := tableInRange 64 64 c.ip && noRepeat c.ip

/-- FEI_PC1 has 56 entries in `1..64`, none repeated (R261). -/
def Config.pc1Ok (c : Config) : Bool := tableInRange 56 64 c.pc1 && noRepeat c.pc1

/-- FEI_PC2 has 48 entries in `1..56`, none repeated (R261). -/
def Config.pc2Ok (c : Config) : Bool := tableInRange 48 56 c.pc2 && noRepeat c.pc2

/-- FEI_E has 48 entries in `1..32` (R261). -/
def Config.expansionOk (c : Config) : Bool := tableInRange 48 32 c.expansion

/-- FEI_P has 32 entries in `1..32` (R261). -/
def Config.poutOk (c : Config) : Bool := tableInRange 32 32 c.pout

/-- There are eight S-boxes of 4 rows by 16 entries in `0..15` (R8, R261). -/
def Config.sboxesOk (c : Config) : Bool := c.sboxes.length == 8 && c.sboxes.all sboxInRange

/-- A configuration is legal only if every constraint of R9 and R261 holds. -/
def Config.wf (c : Config) : Bool :=
  c.bufSizeOk && c.ipOk && c.pc1Ok && c.pc2Ok && c.expansionOk && c.poutOk && c.sboxesOk

end Sys2Proof
end

