-- ==== Sys2Proof/Decode.lean ====
section
/-!
DEFINITION. The decoder of command words, total on all 2^32 of them and rejecting by name (30_encoding.md R100 to
R103), and the encoder, both written from the opcode map of R101.
-/

namespace Sys2Proof

/-- Why a command word is illegal (R102, R103). -/
inductive DecodeError where
  /-- The opcode is 0x00 or in 0x07 to 0xFF. -/
  | unknownOpcode
  /-- The opcode is valid and bits 31:8 are not all zero. -/
  | reservedBits
deriving DecidableEq, Repr

/-- OP, bits 7:0 of a command word (R100). -/
def opField (w : Word) : BitVec 8 := w.extractLsb' 0 8

/-- RSVD, bits 31:8 of a command word (R100). -/
def rsvdField (w : Word) : BitVec 24 := w.extractLsb' 8 24

/-- The opcode map of R101. -/
def decodeOp (op : BitVec 8) : Option Instr :=
  if op = 0x01#8 then some .feiEnc
  else if op = 0x02#8 then some .feiDec
  else if op = 0x03#8 then some .lzwComp
  else if op = 0x04#8 then some .lzwDecomp
  else if op = 0x05#8 then some .huffComp
  else if op = 0x06#8 then some .huffDecomp
  else none

/-- `decode` of R102: the opcode is checked first, then the reserved bits. -/
def decode (w : Word) : Except DecodeError Instr :=
  match decodeOp (opField w) with
  | none => .error .unknownOpcode
  | some i => if rsvdField w = 0#24 then .ok i else .error .reservedBits

/-- The opcode of a command (R101). -/
def opcodeOf : Instr → BitVec 8
  | .feiEnc => 0x01#8
  | .feiDec => 0x02#8
  | .lzwComp => 0x03#8
  | .lzwDecomp => 0x04#8
  | .huffComp => 0x05#8
  | .huffDecomp => 0x06#8

/-- The command word of a command: RSVD zero above OP (R100). -/
def encode (i : Instr) : Word := 0#24 ++ opcodeOf i

/-- The command word a row of the opcode table gives: `nbits` bits of `w`, every bit above them 0. A command word
is the value of one register write, so it has no byte order (R75, R86). -/
def tableWord (nbits w : Nat) : Word := BitVec.ofNat 32 (w % 2 ^ nbits)

/-- The command the decoder reads from an opcode-table word, none where it refuses. -/
def decodeTableWord (nbits w : Nat) : Option Instr :=
  match decode (tableWord nbits w) with
  | .ok i => some i
  | .error _ => none

end Sys2Proof
end

