-- ==== Sys2Proof/Machine/State.lean ====
section
/-!
DEFINITION. The whole state of the engine (10_state.md R48), the model's own environment fields beside it, the ways
a step can stop, and the state right after power-on (70_reset_and_hazards.md R340, R341).
-/

namespace Sys2Proof.Machine

/-- Model faults, where the hardware does something no source fixes (60_exceptions.md R310). No step stops with one: each
is recorded as the sticky mark `State.fault` and the run goes on (assumption 6), which is unsafe for a claim that does
not ask for an unmarked run. -/
inductive Fault where
  /-- `UndefinedRead(a)`. Recorded by a host `BufRead` of the undefined cell `a` (R40), and by a command whose fetch meets
  undefined cells, for the lowest of them (R135). Unsafe as above. -/
  | undefinedRead (a : Nat)
  /-- `HostAccessWhileBusy(a)`. Recorded by a host buffer access while BUSY = 1, which has no other effect (R71). Unsafe as
  above. -/
  | hostAccessWhileBusy (a : Nat)
deriving DecidableEq, Repr

/-- Why a step answers no meaning at all. -/
inductive Refusal where
  /-- Reserved for an instruction whose meaning is not written yet; no arm of `exec` answers it. Safe. -/
  | notModelled (mnemonic : String)
  /-- Answered by the engine's turn in a state with BUSY = 1 and no command word, which no run reaches (10_state.md R41:
  `cur` is present exactly while BUSY = 1). Safe. -/
  | busyWithoutCommand
deriving DecidableEq, Repr

/-- One operation the host issues (10_state.md R30; 30_encoding.md R107, R108). -/
inductive HostOp where
  /-- `RegRead(off)`, an access `size` bytes wide; only `size = 4` is an operation of the port (R37). -/
  | regRead (size off : Nat)
  /-- `RegWrite(off, w)`, an access `size` bytes wide; only `size = 4` is an operation of the port (R37). -/
  | regWrite (size off : Nat) (w : Word)
  /-- `BufRead(a)` (20_memory.md R70). -/
  | bufRead (a : Nat)
  /-- `BufWrite(a, b)` (20_memory.md R70). -/
  | bufWrite (a : Nat) (b : Byte)
  /-- The reset input (R30, R340). -/
  | reset
  /-- The polling loop `wait`: repeat `rd STATUS` until the value read has BUSY = 0 (R108). -/
  | wait
deriving DecidableEq, Repr

/-- The two agents that act on the state (10_state.md R30). -/
inductive Agent where
  | host
  | engine
deriving DecidableEq, Repr

/-- What a port returns to the host (10_state.md R30). -/
inductive Response where
  /-- `RegRead(off)` returned the word `w`. -/
  | word (off : Nat) (w : Word)
  /-- `BufRead(a)` returned the byte `b`. -/
  | byte (a : Nat) (b : Byte)
deriving DecidableEq, Repr

/-- Buffer memory: the defined cells as (address, byte) pairs. A cell that is not listed is undefined (10_state.md
R40), which is every cell at power-on (R341). -/
abbrev Memory := List Host.Cell

/-- The canonical form: addresses strictly rising, so every cell is listed at most once. An unlisted cell holds no
byte, so no listed entry can equal what an unlisted one reads as. -/
abbrev Memory.wf (m : Memory) : Prop := m.Pairwise (fun c d => c.1 < d.1)

/-- The machine's state: every piece R48 lists, then the model's own fields. -/
structure State where
  /-- SRC_ADDR (R31, R34). -/
  srcAddr : Word
  /-- SRC_LEN (R31, R34). -/
  srcLen : Word
  /-- DST_ADDR (R31, R34). -/
  dstAddr : Word
  /-- DST_CAP (R31, R34). -/
  dstCap : Word
  /-- KEY_ADDR (R31, R34). -/
  keyAddr : Word
  /-- KEY_LEN (R31, R34). -/
  keyLen : Word
  /-- STATUS.BUSY (R33). -/
  busy : Bool
  /-- STATUS.DONE (R33). -/
  done : Bool
  /-- STATUS.ERR (R33, R300). -/
  err : BitVec 3
  /-- STATUS.DETAIL (R33, R301). -/
  detail : BitVec 8
  /-- RESULT_LEN (R35). -/
  resultLen : Word
  /-- The command word in progress (R41). -/
  cur : Option Word
  /-- Buffer memory (R40). -/
  mem : Memory
  /-- Sticky mark: a refused host access happened, or a step was taken under an illegal configuration (R48, R310). -/
  refused : Bool
  /-- Sticky mark: the first model fault (R48, R310). -/
  fault : Option Fault
  /-- The model's own: the build's parameters (R9, R261), which no step changes (assumption 3). -/
  config : Config
  /-- The model's own: the operations the host has yet to issue, oldest first (assumption 1). -/
  script : List HostOp
  /-- The model's own: which agent moves at the coming steps; past the end of the list the engine moves while BUSY = 1
  and the host otherwise (assumptions 1 and 14). -/
  turns : List Agent
  /-- The model's own: what the ports returned to the host, newest first (assumption 4). -/
  responses : List Response
  /-- The model's own: how many free outcomes (`Config.freeOutcome`) have been drawn (assumption 20). -/
  draws : Nat
deriving DecidableEq, Repr

/-- The state at power-on, the first reset: every register 0, idle, no command, every cell undefined (R31, R340,
R341), no mark (R48), the default configuration (R9), and an environment that has asked for nothing. -/
def State.reset : State :=
  { srcAddr := 0#32
    srcLen := 0#32
    dstAddr := 0#32
    dstCap := 0#32
    keyAddr := 0#32
    keyLen := 0#32
    busy := false
    done := false
    err := 0#3
    detail := 0#8
    resultLen := 0#32
    cur := none
    mem := []
    refused := false
    fault := none
    config := defaultConfig
    script := []
    turns := []
    responses := []
    draws := 0 }

end Sys2Proof.Machine
end

