-- ==== Sys2Proof/Machine/Flags.lean ====
section
/-!
DEFINITION. The flags of the engine, which are the STATUS fields and nothing else (10_state.md R39): the error kinds
and details with their codes (60_exceptions.md R300, R301), and the STATUS word (R33). The model's one free value, which is
an outcome, stands here beside the type of outcomes.
-/

namespace Sys2Proof.Machine

/-- The error kinds of R300 a command could report. `io` is never produced: the engine has no file system. -/
inductive ErrKind where
  | argument
  | format
  | padding
  | io
  | resource
deriving DecidableEq, Repr

/-- The causes of R301, in the table's order. -/
inductive Detail where
  | unknownOpcode
  | reservedBits
  | srcRange
  | dstRange
  | keyRange
  | overlapSrcDst
  | overlapKeyDst
  | keyTooShort
  | feiBadLength
  | lzwBadFirstCode
  | lzwCodeAhead
  | huffHeaderTruncated
  | huffEmptyTree
  | huffBitsExhausted
  | huffOffTree
  | feiPadValue
  | feiPadMismatch
  | dstTooSmall
deriving DecidableEq, Repr

/-- STATUS.ERR of an error kind (R300). -/
def errCode : ErrKind → BitVec 3
  | .argument => 1#3
  | .format => 2#3
  | .padding => 3#3
  | .io => 4#3
  | .resource => 5#3

/-- STATUS.DETAIL of a cause (R301). -/
def detailCode : Detail → BitVec 8
  | .unknownOpcode => 0x01#8
  | .reservedBits => 0x02#8
  | .srcRange => 0x03#8
  | .dstRange => 0x04#8
  | .keyRange => 0x05#8
  | .overlapSrcDst => 0x06#8
  | .overlapKeyDst => 0x07#8
  | .keyTooShort => 0x08#8
  | .feiBadLength => 0x10#8
  | .lzwBadFirstCode => 0x20#8
  | .lzwCodeAhead => 0x21#8
  | .huffHeaderTruncated => 0x30#8
  | .huffEmptyTree => 0x31#8
  | .huffBitsExhausted => 0x32#8
  | .huffOffTree => 0x33#8
  | .feiPadValue => 0x40#8
  | .feiPadMismatch => 0x41#8
  | .dstTooSmall => 0x50#8

/-- The kind a cause belongs to (the ERR column of R301). -/
def kindOf : Detail → ErrKind
  | .unknownOpcode => .argument
  | .reservedBits => .argument
  | .srcRange => .argument
  | .dstRange => .argument
  | .keyRange => .argument
  | .overlapSrcDst => .argument
  | .overlapKeyDst => .argument
  | .keyTooShort => .argument
  | .feiBadLength => .format
  | .lzwBadFirstCode => .format
  | .lzwCodeAhead => .format
  | .huffHeaderTruncated => .format
  | .huffEmptyTree => .format
  | .huffBitsExhausted => .format
  | .huffOffTree => .format
  | .feiPadValue => .padding
  | .feiPadMismatch => .padding
  | .dstTooSmall => .resource

/-- The outcome of a transform: `Ok(out)`, or an error named by its cause, which fixes its kind (R14, R301). -/
inductive TransformResult where
  | ok (out : Bytes)
  | error (d : Detail)
deriving DecidableEq, Repr, Inhabited

/-- The cause an illegal command word reports (R102, R103). -/
def illegalWordDetail : DecodeError → Detail
  | .unknownOpcode => .unknownOpcode
  | .reservedBits => .reservedBits

/-- The STATUS word of R33: BUSY in bit 0, DONE in bit 1, ERR in 6:4, DETAIL in 15:8, every other bit 0. -/
def statusWord (s : State) : Word :=
  0#16 ++ s.detail ++ 0#1 ++ s.err ++ 0#2 ++ BitVec.ofBool s.done ++ BitVec.ofBool s.busy

end Sys2Proof.Machine

namespace Sys2Proof

/-- The free outcomes, one for each draw: what a command that fetches an undefined cell does is defined by no rule
(40_command_cycle.md R135), so nothing is known of the value (assumption 20). -/
opaque Config.freeOutcome : Nat → Machine.TransformResult

end Sys2Proof
end

