-- ==== Sys2Proof/Machine/Ops.lean ====
section
/-!
DEFINITION. The named operations over memory and registers: reading, writing and undefining buffer cells (00_scope.md
R13, 20_memory.md), the model's marks (60_exceptions.md R310), a command's start (40_command_cycle.md R132), its two
completions (R137; the error completion is what R304 calls "trap entry") and reset (70_reset_and_hazards.md R340).
There is no return-from-error operation (R305): the next start clears what an error recorded.
-/

namespace Sys2Proof.Machine

/-! ## Buffer memory -/

/-- `mem[a]`: the byte the cell holds, none where it is undefined (R40). -/
def Memory.byteAt (m : Memory) (a : Nat) : Option Byte := m.lookup a

/-- The cells `a, a+1, ..` holding the bytes of a sequence. -/
def cellsFrom : Nat → Bytes → Memory
  | _, [] => []
  | a, b :: rest => (a, b) :: cellsFrom (a + 1) rest

/-- `MemWrite(a, len(s), s)`: `mem[a+i] <- s[i]` (R13). -/
def Memory.write (m : Memory) (a : Nat) (s : Bytes) : Memory :=
  m.filter (fun c => decide (c.1 < a)) ++ cellsFrom a s ++ m.filter (fun c => decide (a + s.length ≤ c.1))

/-- The cells `a .. a+n-1` become undefined (R137, R343). -/
def Memory.undefine (m : Memory) (a n : Nat) : Memory :=
  m.filter (fun c => decide (c.1 < a ∨ a + n ≤ c.1))

/-- `MemRead(a, n)`: the bytes `mem[a] .. mem[a+n-1]`, or the lowest undefined address among them (R13, R135). -/
def Memory.read (m : Memory) : Nat → Nat → Except Nat Bytes
  | _, 0 => .ok []
  | a, n + 1 =>
    match m.byteAt a with
    | none => .error a
    | some b =>
      match Memory.read m (a + 1) n with
      | .ok rest => .ok (b :: rest)
      | .error x => .error x

/-! ## The model's marks and the environment -/

/-- Record a model fault; only the first one is kept (R48, R310). -/
def State.markFault (s : State) (f : Fault) : State :=
  { s with fault := s.fault.or (some f) }

/-- Record a refusal: a refused host access, or a step under an illegal configuration (R37, R70, R310). -/
def State.markRefused (s : State) : State :=
  { s with refused := true }

/-- A port returns a value to the host. -/
def State.respond (s : State) (r : Response) : State :=
  { s with responses := r :: s.responses }

/-- A free outcome has been drawn (assumption 20). -/
def State.countDraw (s : State) : State :=
  { s with draws := s.draws + 1 }

/-! ## The command cycle -/

/-- `start(w)` of R132. Buffer memory is not touched. -/
def State.start (s : State) (w : Word) : State :=
  { s with
    busy := true
    done := false
    err := 0#3
    detail := 0#8
    resultLen := 0#32
    cur := some w }

/-- The successful completion of R137: the output is written at DST_ADDR, the rest of DST keeps its bytes (R138). -/
def State.commitOk (s : State) (out : Bytes) : State :=
  { s with
    mem := s.mem.write s.dstAddr.toNat out
    resultLen := BitVec.ofNat 32 out.length
    err := 0#3
    detail := 0#8
    busy := false
    done := true
    cur := none }

/-- Buffer memory after an error completion: unchanged by an ARGUMENT error, and otherwise with the whole DST region
undefined (R137, R304). -/
def State.memAfterError (s : State) (d : Detail) : Memory :=
  match kindOf d with
  | .argument => s.mem
  | _ => s.mem.undefine s.dstAddr.toNat s.dstCap.toNat

/-- The error completion of R137, the one shared way an error is taken (R304): ERR and DETAIL record the cause,
RESULT_LEN reads 0, the engine goes idle. -/
def State.commitError (s : State) (d : Detail) : State :=
  { s with
    mem := s.memAfterError d
    resultLen := 0#32
    err := errCode (kindOf d)
    detail := detailCode d
    busy := false
    done := true
    cur := none }

/-- `complete()` of R137 for the outcome `r`. -/
def State.commit (s : State) : TransformResult → State
  | .ok out => s.commitOk out
  | .error d => s.commitError d

/-! ## Reset -/

/-- Buffer memory after a reset: unchanged while idle (R342); while BUSY = 1 the DST region of the abandoned command
becomes undefined (R343). -/
def State.memAfterReset (s : State) : Memory :=
  if s.busy then s.mem.undefine s.dstAddr.toNat s.dstCap.toNat else s.mem

/-- The reset input, at any time (R340, R342, R343). The model's marks survive it (R344). -/
def State.applyReset (s : State) : State :=
  { s with
    srcAddr := 0#32
    srcLen := 0#32
    dstAddr := 0#32
    dstCap := 0#32
    keyAddr := 0#32
    keyLen := 0#32
    busy := false
    done := false
    err := 0#3
    detail := 0#8
    resultLen := 0#32
    cur := none
    mem := s.memAfterReset }

end Sys2Proof.Machine
end

