-- ==== Sys2Proof/Machine/Operands.lean ====
section
/-!
DEFINITION. The operands of a command: its regions, the checks before the transform (40_command_cycle.md R133), the
input fetch (R135) and the shared course of a command from the checks to its completion (R136, R137).
-/

namespace Sys2Proof.Machine

/-- A range `(address, length)` of buffer memory, in exact naturals (00_scope.md R16, 30_encoding.md R104). -/
structure Region where
  base : Nat
  len : Nat
deriving DecidableEq, Repr

/-- `in_range` of 20_memory.md R73, with no wrap-around. -/
def Region.inRange (r : Region) (bufSize : Nat) : Bool := Nat.ble (r.base + r.len) bufSize

/-- `overlap` of 20_memory.md R74. -/
def Region.overlaps (r q : Region) : Bool :=
  decide (0 < r.len) && decide (0 < q.len) && decide (r.base < q.base + q.len) &&
    decide (q.base < r.base + r.len)

/-- The address `a` lies in the region. -/
def Region.contains (r : Region) (a : Nat) : Bool := decide (r.base ≤ a) && decide (a < r.base + r.len)

/-- The SRC region `(SRC_ADDR, SRC_LEN)` (R104, R133). -/
def State.srcRegion (s : State) : Region := ⟨s.srcAddr.toNat, s.srcLen.toNat⟩

/-- The DST region `(DST_ADDR, DST_CAP)` (R104, R133). -/
def State.dstRegion (s : State) : Region := ⟨s.dstAddr.toNat, s.dstCap.toNat⟩

/-- The KEY region `(KEY_ADDR, KEY_LEN)` (R104, R133). -/
def State.keyRegion (s : State) : Region := ⟨s.keyAddr.toNat, s.keyLen.toNat⟩

/-- The checks of R133 after decoding, in their order; the first that fails is reported, none when all pass. -/
def State.precheck (s : State) (keyed : Bool) : Option Detail :=
  if !s.srcRegion.inRange s.config.bufSize then some .srcRange
  else if !s.dstRegion.inRange s.config.bufSize then some .dstRange
  else if keyed && !s.keyRegion.inRange s.config.bufSize then some .keyRange
  else if s.srcRegion.overlaps s.dstRegion then some .overlapSrcDst
  else if keyed && s.keyRegion.overlaps s.dstRegion then some .overlapKeyDst
  else none

/-- `src` of R135: every byte of the SRC region, or its lowest undefined address. -/
def State.fetchSrc (s : State) : Except Nat Bytes :=
  s.mem.read s.srcAddr.toNat s.srcLen.toNat

/-- `key8` of R135: the first `min(KEY_LEN, 8)` KEY bytes, or the lowest undefined address among them. -/
def State.fetchKey (s : State) : Except Nat Bytes :=
  s.mem.read s.keyAddr.toNat (min s.keyLen.toNat 8)

/-- Both inputs of a keyed command, or the lowest undefined address among all the cells read (R135). -/
def State.fetchKeyed (s : State) : Except Nat (Bytes × Bytes) :=
  match s.fetchSrc, s.fetchKey with
  | .ok src, .ok key => .ok (src, key)
  | .ok _, .error b => .error b
  | .error a, .ok _ => .error a
  | .error a, .error b => .error (min a b)

/-- The capacity check of R136, made only on a successful transform. -/
def capacityCheck (cap : Nat) : TransformResult → TransformResult
  | .ok out => if cap < out.length then .error .dstTooSmall else .ok out
  | .error d => .error d

/-- The cipher commands read the KEY region, the codec commands do not (R104). -/
def isKeyed : Instr → Bool
  | .feiEnc => true
  | .feiDec => true
  | .lzwComp => false
  | .lzwDecomp => false
  | .huffComp => false
  | .huffDecomp => false

/-- The completion of a command whose fetch meets the undefined cell `a` and no lower one (R135, R310): the fault is
recorded, and what completes is a free outcome, because the command has no defined one (assumptions 6 and 20). It commits
as any outcome does (R136, R137), so only the DST region of buffer memory can change (R138). -/
def State.commitUndefined (s : State) (a : Nat) : State :=
  ((s.markFault (.undefinedRead a)).countDraw).commit (capacityCheck s.dstCap.toNat (Config.freeOutcome s.draws))

/-- A codec command from its checks to its completion (R133 to R137). -/
def runCodec (transform : Bytes → TransformResult) (s : State) : Host.Outcome State Fault Refusal :=
  match s.precheck false with
  | some d => .next (s.commitError d)
  | none =>
    match s.fetchSrc with
    | .error a => .next (s.commitUndefined a)
    | .ok src => .next (s.commit (capacityCheck s.dstCap.toNat (transform src)))

/-- A cipher command from its checks to its completion (R133 to R137). The transform takes `src`, `keylen` and
`key8` (R134). -/
def runKeyed (transform : Bytes → Nat → Bytes → TransformResult) (s : State) :
    Host.Outcome State Fault Refusal :=
  match s.precheck true with
  | some d => .next (s.commitError d)
  | none =>
    match s.fetchKeyed with
    | .error a => .next (s.commitUndefined a)
    | .ok (src, key8) => .next (s.commit (capacityCheck s.dstCap.toNat (transform src s.keyLen.toNat key8)))

end Sys2Proof.Machine
end

