-- ==== Sys2Proof/Machine/Feistel.lean ====
section
/-!
DEFINITION. The Feistel block cipher unit: FEI_ENC and FEI_DEC (43_feistel.md). The tables are the configuration's
(R261); the spec's defaults are in Machine/Tables.lean.
-/

namespace Sys2Proof.Machine

/-! ## Primitives -/

/-- `dbit_N(v, k) = v[N-k]`: bit `k` of `v`, counted from 1 at the most significant end (00_scope.md R11). -/
def dbit {n : Nat} (v : BitVec n) (k : Nat) : Bool := v.getLsbD (n - k)

/-- `Perm(T, Nin, v)` of R241, with an `m`-bit result: `T[1]` selects the most significant output bit. -/
def perm (m : Nat) (t : List Nat) {n : Nat} (v : BitVec n) : BitVec m :=
  t.foldl (fun out k => (out <<< 1) ||| (BitVec.ofBool (dbit v k)).setWidth m) 0#m

/-- FEI_FP, the inverse of a permutation table: `FP[IP[j]] = j` (R257). -/
def inverseTable (t : List Nat) : List Nat :=
  (List.range t.length).map (fun k => t.idxOf (k + 1) + 1)

/-- `rotl28` of R244. -/
def rotl28 (x : BitVec 28) (n : Nat) : BitVec 28 := (x <<< n) ||| (x >>> (28 - n))

/-! ## Key schedule -/

/-- FEI_SHIFTS, fixed by the source (00_scope.md R8, R250). -/
def feiShifts : List Nat := [1, 1, 2, 2, 2, 2, 2, 2, 1, 2, 2, 2, 2, 2, 2, 1]

/-- The subkeys of the remaining rounds, from the halves as the previous round left them (R250). -/
def scheduleFrom (c : Config) : List Nat → BitVec 28 → BitVec 28 → List (BitVec 48)
  | [], _, _ => []
  | n :: rest, x, y =>
    perm 48 c.pc2 (rotl28 x n ++ rotl28 y n) :: scheduleFrom c rest (rotl28 x n) (rotl28 y n)

/-- `KeySchedule(K)` of R250: the 16 subkeys in round order. -/
def keySchedule (c : Config) (key : BitVec 64) : List (BitVec 48) :=
  let cd : BitVec 56 := perm 56 c.pc1 key
  scheduleFrom c feiShifts (cd.extractLsb' 28 28) (cd.extractLsb' 0 28)

/-! ## Round function -/

/-- Entry `FEI_S[i+1][row][col]` (R254, R261). -/
def sboxEntry (c : Config) (i row col : Nat) : Nat :=
  ((c.sboxes.getD i []).getD row []).getD col 0

/-- The S-box lookup of the 6-bit group `g` in box `i+1`: the row from the outer bits, the column from the inner
ones (R254). -/
def sboxLookup (c : Config) (i : Nat) (g : BitVec 6) : Nat :=
  sboxEntry c i (2 * (g.getLsbD 5).toNat + (g.getLsbD 0).toNat) (g.extractLsb' 1 4).toNat

/-- `SBoxes(X)` of R254: group `i+1` is the six bits from `47 - 6i` down, box 1's output most significant. -/
def sBoxes (c : Config) (x : BitVec 48) : BitVec 32 :=
  (List.range 8).foldl
    (fun out i => (out <<< 4) ||| BitVec.ofNat 32 (sboxLookup c i (x.extractLsb' (42 - 6 * i) 6))) 0#32

/-- `F(R, k)` of R256. -/
def feistelF (c : Config) (r : BitVec 32) (k : BitVec 48) : BitVec 32 :=
  perm 32 c.pout (sBoxes c (perm 48 c.expansion r ^^^ k))

/-! ## Block function -/

/-- The Feistel rounds under a sequence of subkeys: `(L, R) <- (R, L ^ F(R, k))` for each (R257). -/
def rounds (c : Config) : List (BitVec 48) → BitVec 32 × BitVec 32 → BitVec 32 × BitVec 32
  | [], lr => lr
  | k :: rest, lr => rounds c rest (lr.2, lr.1 ^^^ feistelF c lr.2 k)

/-- `Block(B, ks)` of R257. -/
def block (c : Config) (b : BitVec 64) (ks : List (BitVec 48)) : BitVec 64 :=
  let x : BitVec 64 := perm 64 c.ip b
  let lr := rounds c ks (x.extractLsb' 32 32, x.extractLsb' 0 32)
  perm 64 (inverseTable c.ip) (lr.2 ++ lr.1)

/-- Block `j` of a byte sequence, `B_j = be(m[8j .. 8j+8))` (R242). -/
def blockOf (m : Bytes) (j : Nat) : BitVec 64 := BitVec.ofNat 64 (be ((m.drop (8 * j)).take 8))

/-- `ECB(m, ks)` of R260, for a sequence of whole blocks. -/
def ecb (c : Config) (m : Bytes) (ks : List (BitVec 48)) : Bytes :=
  (List.range (m.length / 8)).flatMap (fun j => toBe 8 (block c (blockOf m j) ks).toNat)

/-! ## Padding -/

/-- `Pad(x)` of R270. -/
def padBlock (x : Bytes) : Bytes :=
  x ++ List.replicate (8 - x.length % 8) (BitVec.ofNat 8 (8 - x.length % 8))

/-- `Unpad(m)` of R272. -/
def unpadBlock (m : Bytes) : TransformResult :=
  let p := (m.getLastD 0#8).toNat
  if p < 1 ∨ 8 < p then .error .feiPadValue
  else if (m.drop (m.length - p)).all (fun b => b.toNat == p) then .ok (m.take (m.length - p))
  else .error .feiPadMismatch

/-! ## The commands -/

/-- The cipher key `K = be(key8)` of R243. -/
def keyOf (key8 : Bytes) : BitVec 64 := BitVec.ofNat 64 (be key8)

/-- `FeiEncrypt(src, keylen, key8)` of R271. -/
def feiEncrypt (c : Config) (src : Bytes) (keylen : Nat) (key8 : Bytes) : TransformResult :=
  if keylen < 8 then .error .keyTooShort
  else .ok (ecb c (padBlock src) (keySchedule c (keyOf key8)))

/-- `FeiDecrypt(src, keylen, key8)` of R273. -/
def feiDecrypt (c : Config) (src : Bytes) (keylen : Nat) (key8 : Bytes) : TransformResult :=
  if keylen < 8 then .error .keyTooShort
  else if src.length = 0 ∨ src.length % 8 ≠ 0 then .error .feiBadLength
  else unpadBlock (ecb c src (keySchedule c (keyOf key8)).reverse)

/-- FEI_ENC (R271). -/
def execFeiEnc (s : State) : Host.Outcome State Fault Refusal := runKeyed (feiEncrypt s.config) s

/-- FEI_DEC (R273). -/
def execFeiDec (s : State) : Host.Outcome State Fault Refusal := runKeyed (feiDecrypt s.config) s

end Sys2Proof.Machine
end

