-- ==== Sys2Proof/Machine/Huffman.lean ====
section
/-!
DEFINITION. The Huffman codec unit: HUFF_COMP and HUFF_DECOMP (42_huffman.md).
-/

namespace Sys2Proof.Machine

/-! ## Nodes and the heap -/

/-- A tree node (R202). Only the synthetic root of a one-symbol tree has no right child (R204), so it has a
constructor of its own. -/
inductive Node where
  | leaf (sym : Byte) (w : Nat)
  | internal (w : Nat) (left right : Node)
  | synthetic (w : Nat) (left : Node)
deriving DecidableEq, Repr

/-- The weight of a node, an exact natural (R202). -/
def Node.weight : Node → Nat
  | .leaf _ w => w
  | .internal w _ _ => w
  | .synthetic w _ => w

/-- The array `H[0..s-1]` of the priority queue (R203). -/
abbrev Heap := List Node

/-- `H[i].w` (R203). -/
def heapWeight (h : Heap) (i : Nat) : Nat :=
  match h[i]? with
  | some n => n.weight
  | none => 0

/-- `swap H[i], H[j]` (R203). -/
def heapSwap (h : Heap) (i j : Nat) : Heap :=
  match h[i]?, h[j]? with
  | some x, some y => (h.set i y).set j x
  | _, _ => h

/-- The sift-up loop of R203 from index `i`; the index falls at every turn, so `i` turns are enough. -/
def siftUp : Nat → Heap → Nat → Heap
  | 0, h, _ => h
  | fuel + 1, h, i =>
    if 0 < i ∧ heapWeight h i < heapWeight h ((i - 1) / 2) then
      siftUp fuel (heapSwap h i ((i - 1) / 2)) ((i - 1) / 2)
    else h

/-- `insert(n)` of R203. -/
def heapInsert (h : Heap) (n : Node) : Heap := siftUp h.length (h ++ [n]) h.length

/-- The lightest of a parent and its children, as R203 picks it: on a tie the parent, then the left child, is
kept. -/
def siftChoice (h : Heap) (i : Nat) : Nat :=
  let m := if 2 * i + 1 < h.length ∧ heapWeight h (2 * i + 1) < heapWeight h i then 2 * i + 1 else i
  if 2 * i + 2 < h.length ∧ heapWeight h (2 * i + 2) < heapWeight h m then 2 * i + 2 else m

/-- The sift-down loop of R203 from index `i`; the index rises at every turn, so `s` turns are enough. -/
def siftDown : Nat → Heap → Nat → Heap
  | 0, h, _ => h
  | fuel + 1, h, i =>
    if siftChoice h i = i then h else siftDown fuel (heapSwap h i (siftChoice h i)) (siftChoice h i)

/-- `extract()` of R203: the root and the remaining heap, none for an empty heap. -/
def heapExtract : Heap → Option (Node × Heap)
  | [] => none
  | top :: [] => some (top, [])
  | top :: x :: rest =>
    some (top, siftDown (rest.length + 1) (((x :: rest).getLastD top) :: (x :: rest).dropLast) 0)

/-! ## The tree -/

/-- The leaf loop of `BuildTree` (R204): the weights of the byte values from `b` on, in increasing byte value; a weight
of 0 inserts nothing. -/
def insertLeaves (h : Heap) (b : Nat) : List Nat → Heap
  | [] => h
  | w :: rest => insertLeaves (if 0 < w then heapInsert h (.leaf (BitVec.ofNat 8 b) w) else h) (b + 1) rest

/-- The heap of the leaves of a frequency table (R204). -/
def leafHeap (freq : List Nat) : Heap := insertLeaves [] 0 freq

/-- The merging loop of `BuildTree` (R204): the first node extracted becomes the left child. Each turn makes the heap
one shorter, so as many turns as the heap is long are enough. -/
def mergeLoop : Nat → Heap → Option Node
  | 0, _ => none
  | fuel + 1, h =>
    match heapExtract h with
    | none => none
    | some (a, h1) =>
      match heapExtract h1 with
      | none => some a
      | some (b, h2) => mergeLoop fuel (heapInsert h2 (.internal (a.weight + b.weight) a b))

/-- `BuildTree(freq)` of R204: none for an empty table, a synthetic root over a single leaf. -/
def buildTree (freq : List Nat) : Option Node :=
  match leafHeap freq with
  | [] => none
  | [l] => some (.synthetic l.weight l)
  | h => mergeLoop h.length h

/-- The leaves of a tree with their codewords, 0 for each step left and 1 for each step right (R205). -/
def codewords : Node → List (Byte × List Bool)
  | .leaf b _ => [(b, [])]
  | .internal _ l r =>
    (codewords l).map (fun p => (p.1, false :: p.2)) ++ (codewords r).map (fun p => (p.1, true :: p.2))
  | .synthetic _ l => (codewords l).map (fun p => (p.1, false :: p.2))

/-- The codewords of a tree that may be absent (R204, R205). -/
def codeTable : Option Node → List (Byte × List Bool)
  | none => []
  | some root => codewords root

/-- The codeword of a byte value, empty when it has no leaf (R205). -/
def codewordOf (table : List (Byte × List Bool)) (b : Byte) : List Bool := (table.lookup b).getD []

/-! ## Compression -/

/-- The frequency table of R201. -/
def frequencies (src : Bytes) : List Nat := (List.range 256).map (fun b => src.count (BitVec.ofNat 8 b))

/-- The 1284-byte header of R200 and R206. -/
def huffHeader (src : Bytes) (table : List (Byte × List Bool)) : Bytes :=
  toBe 4 src.length ++
    (List.range 256).map (fun b => BitVec.ofNat 8 (codewordOf table (BitVec.ofNat 8 b)).length) ++
    (frequencies src).flatMap (toBe 4)

/-- The codeword bits of the original's bytes, in order (R206). -/
def huffBits (src : Bytes) (table : List (Byte × List Bool)) : List Bool := src.flatMap (codewordOf table)

/-- `HuffCompress(src)` of R206. -/
def huffCompress (src : Bytes) : TransformResult :=
  let table := codeTable (buildTree (frequencies src))
  .ok (huffHeader src table ++ bytesOfBits (padToByte (huffBits src table)))

/-! ## Decompression -/

/-- What one walk from a node meets (R209): a leaf's symbol and the bits left, or an error. -/
inductive Walk where
  | symbol (b : Byte) (rest : List Bool)
  | failed (d : Detail)
deriving DecidableEq, Repr

/-- The inner loop of R209: one step of the walk for each bit, until a leaf is reached. -/
def walkTree : Node → List Bool → Walk
  | .leaf b _, bits => .symbol b bits
  | .internal _ _ _, [] => .failed .huffBitsExhausted
  | .internal _ l r, bit :: rest => if bit then walkTree r rest else walkTree l rest
  | .synthetic _ _, [] => .failed .huffBitsExhausted
  | .synthetic _ l, bit :: rest => if bit then .failed .huffOffTree else walkTree l rest

/-- The outer loop of R209: `n` more bytes from the bits of the body, appended to what came before. -/
def huffDecodeLoop (root : Node) : Nat → List Bool → TransformResult
  | 0, _ => .ok []
  | n + 1, bits =>
    match walkTree root bits with
    | .failed d => .error d
    | .symbol b rest =>
      match huffDecodeLoop root n rest with
      | .ok out => .ok (b :: out)
      | .error d => .error d

/-- `n` big-endian 32-bit values, one after the other (R200). -/
def be32Table : Nat → Bytes → List Nat
  | 0, _ => []
  | n + 1, s => be (s.take 4) :: be32Table n (s.drop 4)

/-- The frequency table of an artifact, `freq[b] = be(src[260+4b .. 264+4b))` (R200, R209). -/
def artifactFreq (src : Bytes) : List Nat := be32Table 256 (src.drop 260)

/-- `HuffDecompress(src)` of R209. The code_len table is not read (R211). -/
def huffDecompress (src : Bytes) : TransformResult :=
  if src.length < 1284 then .error .huffHeaderTruncated
  else if be (src.take 4) = 0 then .ok []
  else
    match buildTree (artifactFreq src) with
    | none => .error .huffEmptyTree
    | some root => huffDecodeLoop root (be (src.take 4)) (bitsOfBytes (src.drop 1284))

/-! ## The commands -/

/-- HUFF_COMP (R207). -/
def execHuffComp (s : State) : Host.Outcome State Fault Refusal := runCodec huffCompress s

/-- HUFF_DECOMP (R208). -/
def execHuffDecomp (s : State) : Host.Outcome State Fault Refusal := runCodec huffDecompress s

end Sys2Proof.Machine
end

