-- ==== Sys2Proof/Machine/Lzw.lean ====
section
/-!
DEFINITION. The LZW codec unit: LZW_COMP and LZW_DECOMP (41_lzw.md).
-/

namespace Sys2Proof.Machine

/-- A 12-bit code (R160). -/
abbrev Code := BitVec 12

/-! ## Dictionary -/

/-- The dictionary: entry `c` is the byte string of code `c`, and the next-free code `next` is its length (R161). -/
abbrev Dict := List Bytes

/-- The fresh dictionary: `dict[c] = [c]` for `c` in `0..255` (R161). -/
def freshDict : Dict := (List.range 256).map (fun c => [BitVec.ofNat 8 c])

/-- `add(s)` of R162: nothing once the 4096 entries are given out. -/
def dictAdd (d : Dict) (s : Bytes) : Dict := if d.length < 4096 then d ++ [s] else d

/-- `code(w)`: the code of a dictionary string (R165). -/
def codeOf (d : Dict) (w : Bytes) : Code := BitVec.ofNat 12 (d.idxOf w)

/-! ## Bit packing -/

/-- `Pack12(codes)` of R163: two codes fill three bytes, MSB-first, and a last odd code fills two with four zero
bits after it. -/
def pack12 : List Code → Bytes
  | [] => []
  | [a] => [a.extractLsb' 4 8, a.extractLsb' 0 4 ++ 0#4]
  | a :: b :: rest =>
    a.extractLsb' 4 8 :: (a.extractLsb' 0 4 ++ b.extractLsb' 8 4) :: b.extractLsb' 0 8 :: pack12 rest

/-- `Unpack12(s)` of R164: the whole 12-bit codes of a byte sequence; trailing bits are ignored. -/
def unpack12 : Bytes → List Code
  | x :: y :: z :: rest =>
    (x ++ y.extractLsb' 4 4) :: (y.extractLsb' 0 4 ++ z) :: unpack12 rest
  | [x, y] => [x ++ y.extractLsb' 4 4]
  | _ => []

/-! ## Compression -/

/-- The loop of `LzwEncodeCodes` (R165): `w` is the current match, always a dictionary string. -/
def lzwEncodeLoop (d : Dict) (w : Bytes) : Bytes → List Code
  | [] => [codeOf d w]
  | c :: rest =>
    if d.contains (w ++ [c]) then lzwEncodeLoop d (w ++ [c]) rest
    else codeOf d w :: lzwEncodeLoop (dictAdd d (w ++ [c])) [c] rest

/-- `LzwEncodeCodes(src)` of R165. -/
def lzwEncodeCodes : Bytes → List Code
  | [] => []
  | b :: rest => lzwEncodeLoop freshDict [b] rest

/-- `LzwCompress(src)` of R166. -/
def lzwCompress (src : Bytes) : TransformResult := .ok (pack12 (lzwEncodeCodes src))

/-! ## Decompression -/

/-- The bytes of code `c` after the entry `prev`: a known code, the special case `c = next`, or none when the code is
more than one ahead (R167). -/
def lzwEntry (d : Dict) (prev : Bytes) (c : Code) : Option Bytes :=
  if c.toNat < d.length then d[c.toNat]?
  else if c.toNat = d.length then some (prev ++ prev.take 1)
  else none

/-- A longer output, on success. -/
def TransformResult.prepend (e : Bytes) : TransformResult → TransformResult
  | .ok out => .ok (e ++ out)
  | .error d => .error d

/-- The loop of `LzwDecodeCodes` (R167). -/
def lzwDecodeLoop (d : Dict) (prev : Bytes) : List Code → TransformResult
  | [] => .ok []
  | c :: rest =>
    match lzwEntry d prev c with
    | none => .error .lzwCodeAhead
    | some e => (lzwDecodeLoop (dictAdd d (prev ++ e.take 1)) e rest).prepend e

/-- `LzwDecodeCodes(codes)` of R167. The first code is checked against `0..255` before anything else (90_conflicts.md
C2). -/
def lzwDecodeCodes : List Code → TransformResult
  | [] => .ok []
  | c :: rest =>
    if 255 < c.toNat then .error .lzwBadFirstCode
    else (lzwDecodeLoop freshDict [c.setWidth 8] rest).prepend [c.setWidth 8]

/-- `LzwDecompress(src)` of R168. -/
def lzwDecompress (src : Bytes) : TransformResult := lzwDecodeCodes (unpack12 src)

/-! ## The commands -/

/-- LZW_COMP (R166). -/
def execLzwComp (s : State) : Host.Outcome State Fault Refusal := runCodec lzwCompress s

/-- LZW_DECOMP (R168). -/
def execLzwDecomp (s : State) : Host.Outcome State Fault Refusal := runCodec lzwDecompress s

end Sys2Proof.Machine
end

