-- ==== Sys2Proof/Machine/Dispatch.lean ====
section
/-!
DEFINITION. The meaning of each command: its completion (40_command_cycle.md R133 to R137) from the state its start
left, one arm per constructor of Instr.
-/

namespace Sys2Proof.Machine

def exec (i : Instr) (s : State) : Host.Outcome State Fault Refusal :=
  match i with
  | .feiEnc => Sys2Proof.Machine.execFeiEnc s
  | .feiDec => Sys2Proof.Machine.execFeiDec s
  | .lzwComp => Sys2Proof.Machine.execLzwComp s
  | .lzwDecomp => Sys2Proof.Machine.execLzwDecomp s
  | .huffComp => Sys2Proof.Machine.execHuffComp s
  | .huffDecomp => Sys2Proof.Machine.execHuffDecomp s

end Sys2Proof.Machine
end

