-- ==== Sys2Proof/Machine/Port.lean ====
section
/-!
DEFINITION. The host's operations at the two ports and the reset input (10_state.md R30 to R38; 20_memory.md R70,
R71, R77), the polling loop `wait` (30_encoding.md R108), and the host's turn, which issues the next operation of its
script.
-/

namespace Sys2Proof.Machine

/-! ## The register port -/

/-- The registers of R31 by name. -/
inductive RegName where
  | cmd
  | status
  | srcAddr
  | srcLen
  | dstAddr
  | dstCap
  | keyAddr
  | keyLen
  | resultLen
deriving DecidableEq, Repr

/-- The offset of a register (R31). -/
def offsetOf : RegName → Nat
  | .cmd => 0x000
  | .status => 0x004
  | .srcAddr => 0x008
  | .srcLen => 0x00C
  | .dstAddr => 0x010
  | .dstCap => 0x014
  | .keyAddr => 0x018
  | .keyLen => 0x01C
  | .resultLen => 0x020

/-- The register at an offset, none at a reserved one (R31, R36). -/
def regAt (off : Nat) : Option RegName :=
  if off = 0x000 then some .cmd
  else if off = 0x004 then some .status
  else if off = 0x008 then some .srcAddr
  else if off = 0x00C then some .srcLen
  else if off = 0x010 then some .dstAddr
  else if off = 0x014 then some .dstCap
  else if off = 0x018 then some .keyAddr
  else if off = 0x01C then some .keyLen
  else if off = 0x020 then some .resultLen
  else none

/-- The value a register reads as; CMD reads 0 (R32), STATUS as the word of R33. -/
def State.readReg (s : State) : RegName → Word
  | .cmd => 0#32
  | .status => statusWord s
  | .srcAddr => s.srcAddr
  | .srcLen => s.srcLen
  | .dstAddr => s.dstAddr
  | .dstCap => s.dstCap
  | .keyAddr => s.keyAddr
  | .keyLen => s.keyLen
  | .resultLen => s.resultLen

/-- A register write while BUSY = 0: CMD starts a command (R32), the configuration registers store all 32 bits (R34),
STATUS and RESULT_LEN ignore it (R33, R35). -/
def State.writeReg (s : State) (w : Word) : RegName → State
  | .cmd => s.start w
  | .status => s
  | .srcAddr => { s with srcAddr := w }
  | .srcLen => { s with srcLen := w }
  | .dstAddr => { s with dstAddr := w }
  | .dstCap => { s with dstCap := w }
  | .keyAddr => { s with keyAddr := w }
  | .keyLen => { s with keyLen := w }
  | .resultLen => s

/-- An access the register port carries: one aligned word inside the register space (R37). -/
def regAccessOk (size off : Nat) : Bool := size == 4 && off % 4 == 0 && decide (off < 0x1000)

/-- The word `RegRead(off)` returns; a reserved offset reads 0 (R36). -/
def State.regValue (s : State) (off : Nat) : Word :=
  match regAt off with
  | some r => s.readReg r
  | none => 0#32

/-- `RegRead(off)`: no side effect beyond the value returned (R77); while BUSY = 1 it returns the current value
(R38). -/
def State.hostRegRead (s : State) (size off : Nat) : State :=
  if regAccessOk size off then s.respond (.word off (s.regValue off)) else s.markRefused

/-- `RegWrite(off, w)`: ignored at every offset while BUSY = 1 (R38), and at a reserved offset always (R36). -/
def State.hostRegWrite (s : State) (size off : Nat) (w : Word) : State :=
  if regAccessOk size off then
    if s.busy then s
    else
      match regAt off with
      | some r => s.writeReg w r
      | none => s
  else s.markRefused

/-! ## The buffer port -/

/-- `BufRead(a)`: the byte of the cell, or the fault of an undefined one (R40); no side effect on the engine (R77). -/
def State.hostBufRead (s : State) (a : Nat) : State :=
  if s.config.bufSize ≤ a then s.markRefused
  else if s.busy then s.markFault (.hostAccessWhileBusy a)
  else
    match s.mem.byteAt a with
    | some b => s.respond (.byte a b)
    | none => s.markFault (.undefinedRead a)

/-- `BufWrite(a, b)`: `mem[a] <- b` (R40). -/
def State.hostBufWrite (s : State) (a : Nat) (b : Byte) : State :=
  if s.config.bufSize ≤ a then s.markRefused
  else if s.busy then s.markFault (.hostAccessWhileBusy a)
  else { s with mem := s.mem.write a [b] }

/-! ## The host's turn -/

/-- One round of `wait` (R108): read STATUS, and poll again if the value read has BUSY = 1. -/
def State.hostWait (s : State) : State :=
  let polled := s.hostRegRead 4 (offsetOf .status)
  if s.busy then { polled with script := .wait :: polled.script } else polled

/-- What a host operation does. -/
def State.hostOp (s : State) : HostOp → State
  | .regRead size off => s.hostRegRead size off
  | .regWrite size off w => s.hostRegWrite size off w
  | .bufRead a => s.hostBufRead a
  | .bufWrite a b => s.hostBufWrite a b
  | .reset => s.applyReset
  | .wait => s.hostWait

/-- The host's turn: the next operation of its script takes effect (20_memory.md R81); nothing happens when the
script is empty (assumption 13). -/
def State.hostTurn (s : State) : State :=
  match s.script with
  | [] => s
  | op :: rest => State.hostOp { s with script := rest } op

end Sys2Proof.Machine
end

