-- ==== Sys2Proof/Machine/Cycle.lean ====
section
/-!
DEFINITION. The engine's turn, which completes the command in progress (40_command_cycle.md R137), and the choice of
the agent that moves (20_memory.md R81; 40_command_cycle.md R140).
-/

namespace Sys2Proof.Machine

/-- The completion of the command word `w`: the decode check of R133, then the command's own course. An illegal word
completes with its ARGUMENT error (R103). -/
def completeWord (w : Word) (s : State) : Host.Outcome State Fault Refusal :=
  match decode w with
  | .ok i => exec i s
  | .error e => .next (s.commitError (illegalWordDetail e))

/-- The engine's turn: completion is enabled whenever BUSY = 1 (R137), and otherwise the engine is idle (60_exceptions.md
R326; assumption 13). -/
def engineTurn (s : State) : Host.Outcome State Fault Refusal :=
  if s.busy then
    match s.cur with
    | some w => completeWord w s
    | none => .refused .busyWithoutCommand
  else .next s

/-- The agent that moves: the next one listed, and past the list the engine while BUSY = 1 (the weak fairness of R140)
and the host otherwise (assumptions 1 and 14). -/
def State.nextAgent (s : State) : Agent :=
  match s.turns with
  | a :: _ => a
  | [] => if s.busy then .engine else .host

/-- The listed turn is taken. -/
def State.popTurn (s : State) : State := { s with turns := s.turns.tail }

end Sys2Proof.Machine
end

