-- ==== Sys2Proof/Machine/Step.lean ====
section
/-!
DEFINITION. One step of the machine: one port operation of the host or one completion of the engine (20_memory.md R81,
R84). A configuration that breaks its constraints is refused (43_feistel.md R261): the refusal is recorded and the turn has
no other effect (60_exceptions.md R310; assumption 11).
-/

namespace Sys2Proof.Machine

/-- One step. -/
def step (s : State) : Host.Outcome State Fault Refusal :=
  if s.config.wf then
    match s.nextAgent with
    | .host => .next s.popTurn.hostTurn
    | .engine => engineTurn s.popTurn
  else .next s.popTurn.markRefused

/-- `s` with the command word of an opcode-table row started (40_command_cycle.md R132) and the engine's turn listed
first, so that the next step completes exactly that command (assumption 2). -/
def State.withFetchWord (s : State) (nbits w : Nat) : State :=
  { s.start (tableWord nbits w) with turns := .engine :: s.turns }

end Sys2Proof.Machine
end

