-- ==== Sys2Proof/Machine/HostScript.lean ====
section
/-!
DEFINITION. The host-script lines of 30_encoding.md R107 and R108 and the port operations they stand for.
-/

namespace Sys2Proof.Machine

/-- A line of a host script (R107, R108). `cmd` and `run` take the command word; a mnemonic's word is `encode`. -/
inductive ScriptLine where
  | wr (name : RegName) (v : Word)
  | rd (name : RegName)
  | bw (a : Nat) (h : Bytes)
  | br (a n : Nat)
  | cmd (w : Word)
  | wait
  | run (w : Word)
  | src (a n : Word)
  | dst (a n : Word)
  | key (a n : Word)
deriving DecidableEq, Repr

/-- `wr NAME, v` is `RegWrite(off(NAME), v)` (R107). -/
def wrOp (name : RegName) (v : Word) : HostOp := .regWrite 4 (offsetOf name) v

/-- `bw a, h`: one `BufWrite` for each byte of `h` in turn (R107). -/
def bwOps : Nat → Bytes → List HostOp
  | _, [] => []
  | a, b :: rest => .bufWrite a b :: bwOps (a + 1) rest

/-- `br a, n`: `BufRead(a+i)` for `i` in `0..n-1` (R107). -/
def brOps (a n : Nat) : List HostOp := (List.range n).map (fun i => .bufRead (a + i))

/-- The port operations of a script line (R107, R108). -/
def ScriptLine.expand : ScriptLine → List HostOp
  | .wr name v => [wrOp name v]
  | .rd name => [.regRead 4 (offsetOf name)]
  | .bw a h => bwOps a h
  | .br a n => brOps a n
  | .cmd w => [wrOp .cmd w]
  | .wait => [.wait]
  | .run w => [wrOp .cmd w, .wait]
  | .src a n => [wrOp .srcAddr a, wrOp .srcLen n]
  | .dst a n => [wrOp .dstAddr a, wrOp .dstCap n]
  | .key a n => [wrOp .keyAddr a, wrOp .keyLen n]

/-- The port operations of a host program (R107). -/
def expandScript (p : List ScriptLine) : List HostOp := p.flatMap ScriptLine.expand

end Sys2Proof.Machine
end

