-- ==== Sys2Proof/Safety.lean ====
section
/-!
DEFINITION. The terms claims are stated in: what two states share, the effect of a completion as the host can observe
it (40_command_cycle.md R137, R138), the legal states (10_state.md R33, R40, R41, R48), and a safe run
(60_exceptions.md R310; 70_reset_and_hazards.md R350).
-/

namespace Sys2Proof.Machine

/-! ## What two states share -/

/-- The six configuration registers are equal (R34). -/
abbrev SameOperands (s t : State) : Prop :=
  t.srcAddr = s.srcAddr ∧ t.srcLen = s.srcLen ∧ t.dstAddr = s.dstAddr ∧ t.dstCap = s.dstCap ∧
    t.keyAddr = s.keyAddr ∧ t.keyLen = s.keyLen

/-- The model's marks are equal (R310). -/
abbrev SameMarks (s t : State) : Prop := t.refused = s.refused ∧ t.fault = s.fault

/-- The model's own fields are equal: the configuration, the host's script, the turns, the responses and the count of
draws. -/
abbrev SameEnvironment (s t : State) : Prop :=
  t.config = s.config ∧ t.script = s.script ∧ t.turns = s.turns ∧ t.responses = s.responses ∧ t.draws = s.draws

/-- Every buffer cell outside `[base, base+len)` is as before. -/
def UnchangedOutside (s t : State) (base len : Nat) : Prop :=
  ∀ a, a < base ∨ base + len ≤ a → t.mem.byteAt a = s.mem.byteAt a

/-- The command `i`, started in `s`, fetches the cell `a`: the SRC region, and for a cipher command the first
`min(KEY_LEN, 8)` bytes of the KEY region (R135). -/
abbrev ReadsCell (i : Instr) (s : State) (a : Nat) : Prop :=
  (s.srcAddr.toNat ≤ a ∧ a < s.srcAddr.toNat + s.srcLen.toNat) ∨
    (isKeyed i = true ∧ s.keyAddr.toNat ≤ a ∧ a < s.keyAddr.toNat + min s.keyLen.toNat 8)

/-- The SRC region holds the bytes `src` (R135). -/
abbrev SrcHolds (s : State) (src : Bytes) : Prop :=
  src.length = s.srcLen.toNat ∧ ∀ k, k < src.length → s.mem.byteAt (s.srcAddr.toNat + k) = src[k]?

/-- The first `min(KEY_LEN, 8)` bytes of the KEY region are `key8` (R135). -/
abbrev KeyHolds (s : State) (key8 : Bytes) : Prop :=
  key8.length = min s.keyLen.toNat 8 ∧ ∀ k, k < key8.length → s.mem.byteAt (s.keyAddr.toNat + k) = key8[k]?

/-- The cell `a` is the lowest undefined one among those the command `i` reads (R135). -/
abbrev LowestUndefined (i : Instr) (s : State) (a : Nat) : Prop :=
  ReadsCell i s a ∧ s.mem.byteAt a = none ∧ ∀ b, b < a → ReadsCell i s b → s.mem.byteAt b ≠ none

/-- The command `i` meets no undefined cell: a check fails first, or every cell it fetches is defined (R133, R135). -/
abbrev FetchesDefined (i : Instr) (s : State) : Prop :=
  s.precheck (isKeyed i) = none → ∀ a, ReadsCell i s a → s.mem.byteAt a ≠ none

/-! ## Completions as the host sees them -/

/-- `t` is `s` after a completion: idle, done, and nothing but STATUS, RESULT_LEN, `cur` and the DST region changed
(R137, R138). -/
def Completed (s t : State) : Prop :=
  t.busy = false ∧ t.done = true ∧ t.cur = none ∧ SameOperands s t ∧ SameMarks s t ∧ SameEnvironment s t ∧
    UnchangedOutside s t s.dstAddr.toNat s.dstCap.toNat

/-- `t` is `s` after a successful completion with the output `out` (R137, R138). -/
def CompletedOk (s t : State) (out : Bytes) : Prop :=
  Completed s t ∧ t.err = 0#3 ∧ t.detail = 0#8 ∧ t.resultLen.toNat = out.length ∧
    (∀ k, k < out.length → t.mem.byteAt (s.dstAddr.toNat + k) = out[k]?) ∧
    UnchangedOutside s t s.dstAddr.toNat out.length

/-- `t` is `s` after an error completion with the cause `d`: an ARGUMENT error leaves buffer memory unchanged, any
other makes every DST cell undefined (R137, R304). -/
def CompletedError (s t : State) (d : Detail) : Prop :=
  Completed s t ∧ t.err = errCode (kindOf d) ∧ t.detail = detailCode d ∧ t.resultLen = 0#32 ∧
    (kindOf d = .argument → t.mem = s.mem) ∧
    (kindOf d ≠ .argument →
      ∀ a, s.dstAddr.toNat ≤ a → a < s.dstAddr.toNat + s.dstCap.toNat → t.mem.byteAt a = none)

/-! ## The bits of a code -/

/-- The 12 bits of a code, bit 11 first, as R163 lays them in a stream. -/
def codeBits (c : Code) : List Bool := (List.range 12).map (fun k => c.getLsbD (11 - k))

/-! ## The heap of 42_huffman.md -/

/-- The order of the binary min-heap of R203: no node is lighter than its parent. -/
abbrev HeapOrdered (h : Heap) : Prop :=
  ∀ i, i < h.length → 0 < i → heapWeight h ((i - 1) / 2) ≤ heapWeight h i

/-- The leaves of a frequency table, in increasing byte value (R204). -/
def leavesOf (freq : List Nat) : List Node :=
  ((List.range freq.length).filter (fun b => decide (0 < freq.getD b 0))).map
    (fun b => .leaf (BitVec.ofNat 8 b) (freq.getD b 0))

/-! ## Legal states -/

/-- Every cause of R301. -/
def allDetails : List Detail :=
  [.unknownOpcode, .reservedBits, .srcRange, .dstRange, .keyRange, .overlapSrcDst, .overlapKeyDst, .keyTooShort,
    .feiBadLength, .lzwBadFirstCode, .lzwCodeAhead, .huffHeaderTruncated, .huffEmptyTree, .huffBitsExhausted,
    .huffOffTree, .feiPadValue, .feiPadMismatch, .dstTooSmall]

/-- `cur` is present exactly while BUSY = 1 (R41). -/
abbrev State.CurLegal (s : State) : Prop := s.cur.isSome = s.busy

/-- BUSY and DONE are never both 1 (R33), and while no command has completed ERR, DETAIL and RESULT_LEN read 0 (R33,
R35, R38). -/
abbrev State.StatusLegal (s : State) : Prop :=
  ¬(s.busy = true ∧ s.done = true) ∧ (s.done = false → s.err = 0#3 ∧ s.detail = 0#8 ∧ s.resultLen = 0#32)

/-- ERR and DETAIL are both 0 or name one cause of R301, and then RESULT_LEN is 0 (R33, R137, R301). -/
abbrev State.ErrorLegal (s : State) : Prop :=
  (s.err = 0#3 ∧ s.detail = 0#8) ∨
    (s.resultLen = 0#32 ∧ ∃ d ∈ allDetails, s.err = errCode (kindOf d) ∧ s.detail = detailCode d)

/-- Buffer memory has its canonical form and lists no address outside `0 .. BUF_SIZE-1` (R40). -/
abbrev State.MemLegal (s : State) : Prop := s.mem.wf ∧ ∀ c ∈ s.mem, c.1 < s.config.bufSize

/-- The invariant of the machine: the legal states of R33, R40, R41 and R301. -/
abbrev State.Inv (s : State) : Prop := s.CurLegal ∧ s.StatusLegal ∧ s.ErrorLegal ∧ s.MemLegal

/-! ## Safe runs -/

/-- No model fault and no refusal has been recorded (R310). -/
abbrev State.Unmarked (s : State) : Prop := s.refused = false ∧ s.fault = none

/-- The run has ended: the host has no more operations and BUSY = 0 (R350). -/
abbrev State.Ended (s : State) : Prop := s.script = [] ∧ s.busy = false

/-- A good final state (R350). R310 lists an illegal configuration among the refusals without saying when it is recorded.
The model's choice (DESIGN CHOICE, assumption 11): it is recorded at every step, and no state under it is good, not even
one before the first step. -/
abbrev State.GoodFinal (s : State) : Prop := s.Ended ∧ s.Unmarked ∧ s.config.wf = true

end Sys2Proof.Machine
end

