-- ==== Sys2Proof/Certificates/Slice0/Obligations.lean ====
section
/-!
DEFINITION. The statements for the provers, one `def Obligations.<Name> : Prop` each; OBLIGATIONS.json lists them.
-/

open Sys2Proof Sys2Proof.Machine

/-! ## Encoding -/

/-- 30_encoding.md R101, on the rows 0x00 to 0x07 and two words with reserved bits set, written out bit by bit. -/
def Obligations.ListedWordsDecode : Prop :=
  decode 0b00000000000000000000000000000001#32 = .ok .feiEnc ∧
  decode 0b00000000000000000000000000000010#32 = .ok .feiDec ∧
  decode 0b00000000000000000000000000000011#32 = .ok .lzwComp ∧
  decode 0b00000000000000000000000000000100#32 = .ok .lzwDecomp ∧
  decode 0b00000000000000000000000000000101#32 = .ok .huffComp ∧
  decode 0b00000000000000000000000000000110#32 = .ok .huffDecomp ∧
  decode 0b00000000000000000000000000000000#32 = .error .unknownOpcode ∧
  decode 0b00000000000000000000000000000111#32 = .error .unknownOpcode ∧
  decode 0b00000000000000000000000100000001#32 = .error .reservedBits ∧
  decode 0b11111111111111111111111100000111#32 = .error .unknownOpcode

/-- 30_encoding.md R102: a word decodes to a command exactly when it is that command's encoding, and these are the words
0x00000001 to 0x00000006; the opcode is checked first, the reserved bits second. -/
def Obligations.DecodeExactlyEncodedWords : Prop :=
  (∀ (w : Word) (i : Instr), i.wf = true → (decode w = .ok i ↔ w = encode i)) ∧
  (∀ w : Word, (∃ i, decode w = .ok i) ↔ 1 ≤ w.toNat ∧ w.toNat ≤ 6) ∧
  (∀ w : Word, decode w = .error .unknownOpcode ↔ w.toNat % 256 = 0 ∨ 6 < w.toNat % 256) ∧
  (∀ w : Word, decode w = .error .reservedBits ↔
    1 ≤ w.toNat % 256 ∧ w.toNat % 256 ≤ 6 ∧ w.toNat / 256 ≠ 0) ∧
  encode .feiEnc = 0x00000001#32 ∧ encode .feiDec = 0x00000002#32 ∧ encode .lzwComp = 0x00000003#32 ∧
  encode .lzwDecomp = 0x00000004#32 ∧ encode .huffComp = 0x00000005#32 ∧ encode .huffDecomp = 0x00000006#32

/-! ## The step -/

/-- 40_command_cycle.md R137, 30_encoding.md R102: when the engine moves, BUSY = 1 and the word in progress decodes to a
well-formed command, the step is that command's meaning, in the state with the turn taken. -/
def Obligations.StepRunsDecodedCommand : Prop :=
  ∀ (s : State) (w : Word) (i : Instr), s.config.wf = true → s.nextAgent = .engine → s.busy = true →
    s.cur = some w → decode w = .ok i → i.wf = true → step s = exec i s.popTurn

/-- 20_memory.md R81: when the host moves, the step is the next operation of its script, and nothing but the turn when the
script is empty (the latter is the model's choice, assumption 13). 10_state.md R30: the four operations of the two ports
are the functions the statements on the ports speak of. -/
def Obligations.HostStepIssuesNextOperation : Prop :=
  (∀ (s : State) (size off a : Nat) (w : Word) (b : Byte),
    s.hostOp (.regRead size off) = s.hostRegRead size off ∧
    s.hostOp (.regWrite size off w) = s.hostRegWrite size off w ∧
    s.hostOp (.bufRead a) = s.hostBufRead a ∧ s.hostOp (.bufWrite a b) = s.hostBufWrite a b) ∧
  ∀ s : State, s.config.wf = true → s.nextAgent = .host →
    (∀ op rest, s.script = op :: rest → step s = .next (State.hostOp { s.popTurn with script := rest } op)) ∧
    (s.script = [] → step s = .next s.popTurn)

/-- 30_encoding.md R103: an illegal word completes at once with the error R102 names; nothing but STATUS, RESULT_LEN and the
command in progress changes. -/
def Obligations.IllegalWordReportsArgumentError : Prop :=
  ∀ (s : State) (w : Word), s.config.wf = true → s.nextAgent = .engine → s.busy = true → s.cur = some w →
    ((w.toNat % 256 = 0 ∨ 6 < w.toNat % 256) → step s = .next { s.popTurn with
        busy := false, done := true, err := 1#3, detail := 0x01#8, resultLen := 0#32, cur := none }) ∧
    ((1 ≤ w.toNat % 256 ∧ w.toNat % 256 ≤ 6 ∧ w.toNat / 256 ≠ 0) → step s = .next { s.popTurn with
        busy := false, done := true, err := 1#3, detail := 0x02#8, resultLen := 0#32, cur := none })

/-- 43_feistel.md R261, 00_scope.md R9, 60_exceptions.md R310: under a configuration that breaks one of its constraints every
step records the refusal, which is sticky, and has no other effect than to take its turn, and no state is a good final
one. That the refusal is recorded at each step, and that no state is good even before the first, is the model's choice
(assumption 11). -/
def Obligations.IllegalConfigurationRefused : Prop :=
  ∀ s : State,
    (s.config.bufSize = 0 ∨ 2 ^ 32 < s.config.bufSize ∨ ¬(s.config.ip.Perm (List.range' 1 64)) ∨
      s.config.pc1.length ≠ 56 ∨ (∃ k ∈ s.config.pc1, k < 1 ∨ 64 < k) ∨ ¬s.config.pc1.Nodup ∨
      s.config.pc2.length ≠ 48 ∨ (∃ k ∈ s.config.pc2, k < 1 ∨ 56 < k) ∨ ¬s.config.pc2.Nodup ∨
      s.config.expansion.length ≠ 48 ∨ (∃ k ∈ s.config.expansion, k < 1 ∨ 32 < k) ∨
      s.config.pout.length ≠ 32 ∨ (∃ k ∈ s.config.pout, k < 1 ∨ 32 < k) ∨
      s.config.sboxes.length ≠ 8 ∨ (∃ box ∈ s.config.sboxes, box.length ≠ 4 ∨
        ∃ row ∈ box, row.length ≠ 16 ∨ ∃ v ∈ row, 15 < v)) →
    step s = .next { s with refused := true, turns := s.turns.tail } ∧ ¬s.GoodFinal

/-! ## The register port -/

/-- 10_state.md R32: a CMD write while idle starts the command, one while busy changes nothing, and CMD reads 0;
40_command_cycle.md R132: what the start writes. -/
def Obligations.CmdWriteStartsCommand : Prop :=
  ∀ (s : State) (w : Word),
    (s.busy = false → s.hostRegWrite 4 0x000 w = { s with
        busy := true, done := false, err := 0#3, detail := 0#8, resultLen := 0#32, cur := some w }) ∧
    (s.busy = true → s.hostRegWrite 4 0x000 w = s) ∧
    s.hostRegRead 4 0x000 = { s with responses := .word 0x000 0#32 :: s.responses }

/-- 10_state.md R34 (with R38 for BUSY = 1): a write of any value to a configuration register stores all 32 bits, is read
back unchanged and changes nothing else; while BUSY = 1 it is ignored. -/
def Obligations.ConfigurationRegistersStoreAllBits : Prop :=
  ∀ (s : State) (w : Word), s.busy = false →
    s.hostRegWrite 4 0x008 w = { s with srcAddr := w } ∧
    s.hostRegWrite 4 0x00C w = { s with srcLen := w } ∧
    s.hostRegWrite 4 0x010 w = { s with dstAddr := w } ∧
    s.hostRegWrite 4 0x014 w = { s with dstCap := w } ∧
    s.hostRegWrite 4 0x018 w = { s with keyAddr := w } ∧
    s.hostRegWrite 4 0x01C w = { s with keyLen := w } ∧
    (∀ off ∈ [0x008, 0x00C, 0x010, 0x014, 0x018, 0x01C],
      (s.hostRegWrite 4 off w).hostRegRead 4 off = { s.hostRegWrite 4 off w with responses := .word off w :: s.responses } ∧
      ∀ s' : State, s'.busy = true → s'.hostRegWrite 4 off w = s')

/-- 10_state.md R36, and the write clauses of R33 and R35: a write to STATUS, RESULT_LEN or a reserved offset is ignored,
and a reserved offset reads 0. -/
def Obligations.ReadOnlyAndReservedOffsets : Prop :=
  ∀ (s : State) (off : Nat) (w : Word), off % 4 = 0 → off < 0x1000 →
    ((off = 0x004 ∨ 0x020 ≤ off) → s.hostRegWrite 4 off w = s) ∧
    (0x024 ≤ off → s.hostRegRead 4 off = { s with responses := .word off 0#32 :: s.responses })

/-- 10_state.md R37: an access that is not one aligned word inside the register space marks the run refused and has no
other effect. -/
def Obligations.BadRegisterAccessRefused : Prop :=
  ∀ (s : State) (size off : Nat) (w : Word), (size ≠ 4 ∨ off % 4 ≠ 0 ∨ 0x1000 ≤ off) →
    s.hostRegWrite size off w = { s with refused := true } ∧ s.hostRegRead size off = { s with refused := true }

/-- 10_state.md R30 and R31, 20_memory.md R77: in every state, busy or not, a register read returns the register's current
value and changes nothing else. 10_state.md R38: while BUSY = 1 every register write is ignored, and in a legal state
(R33, R35) STATUS reads BUSY = 1 and nothing else and RESULT_LEN reads 0. -/
def Obligations.BusyRegisterAccess : Prop :=
  ∀ s : State,
    (∀ off, off % 4 = 0 → off < 0x1000 →
      s.hostRegRead 4 off = { s with responses := .word off (s.regValue off) :: s.responses }) ∧
    s.regValue 0x000 = 0#32 ∧ s.regValue 0x004 = statusWord s ∧ s.regValue 0x008 = s.srcAddr ∧
    s.regValue 0x00C = s.srcLen ∧ s.regValue 0x010 = s.dstAddr ∧ s.regValue 0x014 = s.dstCap ∧
    s.regValue 0x018 = s.keyAddr ∧ s.regValue 0x01C = s.keyLen ∧ s.regValue 0x020 = s.resultLen ∧
    (∀ off, 0x024 ≤ off → s.regValue off = 0#32) ∧
    (s.busy = true → ∀ off w, off % 4 = 0 → off < 0x1000 → s.hostRegWrite 4 off w = s) ∧
    (s.Inv → s.busy = true → s.regValue 0x004 = 1#32 ∧ s.regValue 0x020 = 0#32)

/-- 10_state.md R33, the field table: each bit of the STATUS word. -/
def Obligations.StatusWordBits : Prop :=
  ∀ s : State,
    (statusWord s).getLsbD 0 = s.busy ∧ (statusWord s).getLsbD 1 = s.done ∧
    (∀ i, i < 3 → (statusWord s).getLsbD (4 + i) = s.err.getLsbD i) ∧
    (∀ i, i < 8 → (statusWord s).getLsbD (8 + i) = s.detail.getLsbD i) ∧
    (∀ i, (i = 2 ∨ i = 3 ∨ i = 7 ∨ 16 ≤ i) → (statusWord s).getLsbD i = false)

/-! ## The buffer port -/

/-- 10_state.md R40, the write: a BufWrite while idle sets that one cell and nothing else, and a BufRead then returns the
byte. -/
def Obligations.BufferWriteThenRead : Prop :=
  ∀ (s : State) (a : Nat) (b : Byte), a < s.config.bufSize → s.busy = false →
    ∃ t, s.hostBufWrite a b = t ∧ t = { s with mem := t.mem } ∧ t.mem.byteAt a = some b ∧
      (∀ x, x ≠ a → t.mem.byteAt x = s.mem.byteAt x) ∧
      t.hostBufRead a = { t with responses := .byte a b :: t.responses }

/-- 10_state.md R40, the read: a BufRead while idle returns the byte of a defined cell, and records the fault
UndefinedRead for an undefined one, with no other effect; only the first fault is kept (R48). -/
def Obligations.BufReadOfUndefinedCellFaults : Prop :=
  ∀ (s : State) (a : Nat), a < s.config.bufSize → s.busy = false →
    (∀ b, s.mem.byteAt a = some b → s.hostBufRead a = { s with responses := .byte a b :: s.responses }) ∧
    (s.mem.byteAt a = none → s.fault = none → s.hostBufRead a = { s with fault := some (.undefinedRead a) }) ∧
    (∀ f, s.mem.byteAt a = none → s.fault = some f → s.hostBufRead a = s)

/-- 20_memory.md R70 and R71: a buffer access outside buffer memory is refused, one inside it while BUSY = 1 records
HostAccessWhileBusy; neither has another effect. That the first holds while BUSY = 1 too is the model's reading
(assumption 7). -/
def Obligations.BufferAccessRefusedOrBusy : Prop :=
  ∀ (s : State) (a : Nat) (b : Byte),
    (s.config.bufSize ≤ a →
      s.hostBufRead a = { s with refused := true } ∧ s.hostBufWrite a b = { s with refused := true }) ∧
    (a < s.config.bufSize → s.busy = true → s.fault = none →
      s.hostBufRead a = { s with fault := some (.hostAccessWhileBusy a) } ∧
      s.hostBufWrite a b = { s with fault := some (.hostAccessWhileBusy a) }) ∧
    (∀ f, a < s.config.bufSize → s.busy = true → s.fault = some f →
      s.hostBufRead a = s ∧ s.hostBufWrite a b = s)

/-- 30_encoding.md R108: one round of `wait` reads STATUS; the poll stays in the script exactly while the value read has
BUSY = 1. -/
def Obligations.WaitPollsUntilIdle : Prop :=
  ∀ s : State,
    s.hostOp .wait = { s with
      responses := .word 0x004 (statusWord s) :: s.responses
      script := if (statusWord s).getLsbD 0 then .wait :: s.script else s.script }

/-! ## The checks before the transform -/

/-- 40_command_cycle.md R133 after decoding, with R73 and R74: which check is the first to fail. -/
def Obligations.PrecheckReportsFirstFailure : Prop :=
  ∀ (s : State) (keyed : Bool),
    let n := s.config.bufSize
    let srcOk := s.srcAddr.toNat + s.srcLen.toNat ≤ n
    let dstOk := s.dstAddr.toNat + s.dstCap.toNat ≤ n
    let keyOk := keyed = true → s.keyAddr.toNat + s.keyLen.toNat ≤ n
    let srcMeets := 0 < s.srcLen.toNat ∧ 0 < s.dstCap.toNat ∧ s.srcAddr.toNat < s.dstAddr.toNat + s.dstCap.toNat ∧
      s.dstAddr.toNat < s.srcAddr.toNat + s.srcLen.toNat
    let keyMeets := keyed = true ∧ 0 < s.keyLen.toNat ∧ 0 < s.dstCap.toNat ∧
      s.keyAddr.toNat < s.dstAddr.toNat + s.dstCap.toNat ∧ s.dstAddr.toNat < s.keyAddr.toNat + s.keyLen.toNat
    (¬srcOk → s.precheck keyed = some .srcRange) ∧
    (srcOk → ¬dstOk → s.precheck keyed = some .dstRange) ∧
    (srcOk → dstOk → ¬keyOk → s.precheck keyed = some .keyRange) ∧
    (srcOk → dstOk → keyOk → srcMeets → s.precheck keyed = some .overlapSrcDst) ∧
    (srcOk → dstOk → keyOk → ¬srcMeets → keyMeets → s.precheck keyed = some .overlapKeyDst) ∧
    (srcOk → dstOk → keyOk → ¬srcMeets → ¬keyMeets → s.precheck keyed = none)

/-- 40_command_cycle.md R133 and R137, 60_exceptions.md R304: a command whose checks fail completes with that ARGUMENT error
and leaves buffer memory and the configuration registers as they were. -/
def Obligations.FailedCheckCompletesWithArgumentError : Prop :=
  ∀ (i : Instr) (s : State) (d : Detail), s.precheck (isKeyed i) = some d →
    exec i s = .next { s with
      busy := false, done := true, err := 1#3, detail := detailCode d, resultLen := 0#32, cur := none }

/-- 40_command_cycle.md R135, 60_exceptions.md R310: when the checks pass and a cell the command reads is undefined, the
fault UndefinedRead is recorded for the lowest such address, unless one was recorded before (10_state.md R48). The rule
gives the command no outcome: that it completes with a free one, as any outcome is committed (R137, R138), is the
model's choice (assumptions 6 and 20), and nothing here rests on the free value. -/
def Obligations.UndefinedFetchFaultsAtLowestAddress : Prop :=
  ∀ (i : Instr) (s : State) (a : Nat), s.precheck (isKeyed i) = none → LowestUndefined i s a →
    ∃ t, exec i s = .next t ∧ (s.fault = none → t.fault = some (.undefinedRead a)) ∧
      (∀ f, s.fault = some f → t.fault = some f) ∧ t.refused = s.refused ∧
      t.busy = false ∧ t.done = true ∧ t.cur = none ∧ t.resultLen.toNat ≤ s.dstCap.toNat ∧ SameOperands s t ∧
      UnchangedOutside s t s.dstAddr.toNat s.dstCap.toNat ∧ ¬t.GoodFinal

/-! ## The six commands -/

/-- 43_feistel.md R271: FEI_ENC. -/
def Obligations.FeiEncResult : Prop :=
  ∀ (s : State) (src key8 : Bytes), s.precheck true = none → SrcHolds s src → KeyHolds s key8 →
    (s.keyLen.toNat < 8 → ∃ t, exec .feiEnc s = .next t ∧ CompletedError s t .keyTooShort) ∧
    (8 ≤ s.keyLen.toNat → s.dstCap.toNat < 8 * (s.srcLen.toNat / 8 + 1) →
      ∃ t, exec .feiEnc s = .next t ∧ CompletedError s t .dstTooSmall) ∧
    (8 ≤ s.keyLen.toNat → 8 * (s.srcLen.toNat / 8 + 1) ≤ s.dstCap.toNat →
      ∃ t, exec .feiEnc s = .next t ∧ t.resultLen.toNat = 8 * (s.srcLen.toNat / 8 + 1) ∧
        CompletedOk s t (ecb s.config (padBlock src) (keySchedule s.config (BitVec.ofNat 64 (be key8)))))

/-- 43_feistel.md R272 and R273: FEI_DEC, with its errors in their order. `m` is the decrypted sequence and `p` its last
byte. -/
def Obligations.FeiDecResult : Prop :=
  ∀ (s : State) (src key8 m : Bytes) (p : Byte), s.precheck true = none → SrcHolds s src → KeyHolds s key8 →
    m = ecb s.config src (keySchedule s.config (BitVec.ofNat 64 (be key8))).reverse → p = m.getLastD 0#8 →
    (s.keyLen.toNat < 8 → ∃ t, exec .feiDec s = .next t ∧ CompletedError s t .keyTooShort) ∧
    (8 ≤ s.keyLen.toNat → (s.srcLen.toNat = 0 ∨ s.srcLen.toNat % 8 ≠ 0) →
      ∃ t, exec .feiDec s = .next t ∧ CompletedError s t .feiBadLength) ∧
    (8 ≤ s.keyLen.toNat → s.srcLen.toNat ≠ 0 → s.srcLen.toNat % 8 = 0 →
      (p.toNat = 0 ∨ 8 < p.toNat → ∃ t, exec .feiDec s = .next t ∧ CompletedError s t .feiPadValue) ∧
      (1 ≤ p.toNat → p.toNat ≤ 8 →
        ((∃ k, 1 ≤ k ∧ k ≤ p.toNat ∧ m[m.length - k]? ≠ some p) →
          ∃ t, exec .feiDec s = .next t ∧ CompletedError s t .feiPadMismatch) ∧
        ((∀ k, 1 ≤ k → k ≤ p.toNat → m[m.length - k]? = some p) →
          (s.dstCap.toNat < m.length - p.toNat →
            ∃ t, exec .feiDec s = .next t ∧ CompletedError s t .dstTooSmall) ∧
          (m.length - p.toNat ≤ s.dstCap.toNat →
            ∃ t, exec .feiDec s = .next t ∧ CompletedOk s t (m.take (m.length - p.toNat))))))

/-- 41_lzw.md R166: LZW_COMP. -/
def Obligations.LzwCompResult : Prop :=
  ∀ (s : State) (src : Bytes), s.precheck false = none → SrcHolds s src →
    ((pack12 (lzwEncodeCodes src)).length ≤ s.dstCap.toNat →
      ∃ t, exec .lzwComp s = .next t ∧ CompletedOk s t (pack12 (lzwEncodeCodes src))) ∧
    (s.dstCap.toNat < (pack12 (lzwEncodeCodes src)).length →
      ∃ t, exec .lzwComp s = .next t ∧ CompletedError s t .dstTooSmall)

/-- 41_lzw.md R168: LZW_DECOMP, in terms of the outcome of R167 on the codes of R164. -/
def Obligations.LzwDecompResult : Prop :=
  ∀ (s : State) (src : Bytes), s.precheck false = none → SrcHolds s src →
    (∀ d, lzwDecodeCodes (unpack12 src) = .error d →
      (d = .lzwBadFirstCode ∨ d = .lzwCodeAhead) ∧ ∃ t, exec .lzwDecomp s = .next t ∧ CompletedError s t d) ∧
    (∀ out, lzwDecodeCodes (unpack12 src) = .ok out →
      (out.length ≤ s.dstCap.toNat → ∃ t, exec .lzwDecomp s = .next t ∧ CompletedOk s t out) ∧
      (s.dstCap.toNat < out.length → ∃ t, exec .lzwDecomp s = .next t ∧ CompletedError s t .dstTooSmall))

/-- 42_huffman.md R207: HUFF_COMP. -/
def Obligations.HuffCompResult : Prop :=
  ∀ (s : State) (src out : Bytes), s.precheck false = none → SrcHolds s src → huffCompress src = .ok out →
    1284 ≤ out.length ∧
    (out.length ≤ s.dstCap.toNat → ∃ t, exec .huffComp s = .next t ∧ CompletedOk s t out) ∧
    (s.dstCap.toNat < out.length → ∃ t, exec .huffComp s = .next t ∧ CompletedError s t .dstTooSmall)

/-- 42_huffman.md R208 and R209: HUFF_DECOMP. First each of its outcomes under the condition that gives it, in R208's order:
`table` holds the leaves and codewords of the tree built from the artifact's frequency table, and the body's bits are
read as the codewords of `out` and what follows them. Then that nothing else can come out, and the capacity check. -/
def Obligations.HuffDecompResult : Prop :=
  ∀ (s : State) (src : Bytes), s.precheck false = none → SrcHolds s src →
    (src.length < 1284 → ∃ t, exec .huffDecomp s = .next t ∧ CompletedError s t .huffHeaderTruncated) ∧
    (1284 ≤ src.length → be (src.take 4) = 0 → ∃ t, exec .huffDecomp s = .next t ∧ CompletedOk s t []) ∧
    (1284 ≤ src.length → be (src.take 4) ≠ 0 → (∀ b, b < 256 → be ((src.drop (260 + 4 * b)).take 4) = 0) →
      ∃ t, exec .huffDecomp s = .next t ∧ CompletedError s t .huffEmptyTree) ∧
    (∀ (root : Node) (table : List (Byte × List Bool)) (out : Bytes) (rest : List Bool),
      1284 ≤ src.length → be (src.take 4) ≠ 0 →
      buildTree ((List.range 256).map (fun b => be ((src.drop (260 + 4 * b)).take 4))) = some root →
      table = codewords root → (∀ b ∈ out, ∃ cw, (b, cw) ∈ table) →
      bitsOfBytes (src.drop 1284) = out.flatMap (codewordOf table) ++ rest →
      (out.length < be (src.take 4) → (∃ p ∈ table, rest <+: p.2 ∧ rest ≠ p.2) →
        ∃ t, exec .huffDecomp s = .next t ∧ CompletedError s t .huffBitsExhausted) ∧
      (out.length < be (src.take 4) → table.length = 1 → rest.head? = some true →
        ∃ t, exec .huffDecomp s = .next t ∧ CompletedError s t .huffOffTree) ∧
      (out.length = be (src.take 4) → out.length ≤ s.dstCap.toNat →
        ∃ t, exec .huffDecomp s = .next t ∧ CompletedOk s t out) ∧
      (out.length = be (src.take 4) → s.dstCap.toNat < out.length →
        ∃ t, exec .huffDecomp s = .next t ∧ CompletedError s t .dstTooSmall)) ∧
    (∀ d, huffDecompress src = .error d →
      (d = .huffHeaderTruncated ∨ d = .huffEmptyTree ∨ d = .huffBitsExhausted ∨ d = .huffOffTree) ∧
        ∃ t, exec .huffDecomp s = .next t ∧ CompletedError s t d) ∧
    (∀ out, huffDecompress src = .ok out →
      (out.length ≤ s.dstCap.toNat → ∃ t, exec .huffDecomp s = .next t ∧ CompletedOk s t out) ∧
      (s.dstCap.toNat < out.length → ∃ t, exec .huffDecomp s = .next t ∧ CompletedError s t .dstTooSmall))

/-! ## Frames -/

/-- 40_command_cycle.md R137 and R138, 20_memory.md R78: the frame of FEI_ENC, FEI_DEC, LZW_COMP, LZW_DECOMP, HUFF_COMP and
HUFF_DECOMP. Every configuration register, the refused mark and every field of the environment but the count of draws is
unchanged, and so are the fault mark and the count of draws unless the fetch meets an undefined cell (R135). BUSY, DONE
and `cur` are as the completion leaves them, and no byte outside the DST region changes. -/
def Obligations.CommandFrame : Prop :=
  ∀ (i : Instr) (s t : State), exec i s = .next t →
    t = { s with busy := false, done := true, cur := none, err := t.err, detail := t.detail,
                 resultLen := t.resultLen, mem := t.mem, fault := t.fault, draws := t.draws } ∧
    (FetchesDefined i s → t.fault = s.fault ∧ t.draws = s.draws) ∧
    (∀ a, a < s.dstAddr.toNat ∨ s.dstAddr.toNat + s.dstCap.toNat ≤ a → t.mem.byteAt a = s.mem.byteAt a)

/-- 40_command_cycle.md R137 and R138: after a success only the first RESULT_LEN bytes of the DST region have changed; after
an error RESULT_LEN is 0, and an ARGUMENT error leaves every byte where any other leaves every DST cell undefined. -/
def Obligations.SuccessAndErrorFrames : Prop :=
  ∀ (i : Instr) (s t : State), exec i s = .next t →
    (t.err = 0#3 → t.detail = 0#8 ∧ t.resultLen.toNat ≤ s.dstCap.toNat ∧
      ∀ a, a < s.dstAddr.toNat ∨ s.dstAddr.toNat + t.resultLen.toNat ≤ a → t.mem.byteAt a = s.mem.byteAt a) ∧
    (t.err = 1#3 → t.resultLen = 0#32 ∧ t.mem = s.mem) ∧
    (t.err ≠ 0#3 → t.err ≠ 1#3 → t.resultLen = 0#32 ∧
      ∀ a, s.dstAddr.toNat ≤ a → a < s.dstAddr.toNat + s.dstCap.toNat → t.mem.byteAt a = none)

/-- 40_command_cycle.md R139: a command never changes its SRC region, nor a cipher command its KEY region. -/
def Obligations.CommandsKeepTheirInputs : Prop :=
  ∀ (i : Instr) (s t : State), exec i s = .next t →
    (∀ a, s.srcAddr.toNat ≤ a → a < s.srcAddr.toNat + s.srcLen.toNat → t.mem.byteAt a = s.mem.byteAt a) ∧
    (isKeyed i = true →
      ∀ a, s.keyAddr.toNat ≤ a → a < s.keyAddr.toNat + s.keyLen.toNat → t.mem.byteAt a = s.mem.byteAt a)

/-- 40_command_cycle.md R141: the outcome depends only on the command, the configuration registers, the bytes it fetches
and the configuration. A command that fetches a cell holding no byte has no outcome (R135); what the model does then is
`UndefinedFetchFaultsAtLowestAddress`. -/
def Obligations.OutcomeDependsOnlyOnInputs : Prop :=
  ∀ (i : Instr) (s s' t : State), SameOperands s s' → s'.config = s.config →
    (∀ a, ReadsCell i s a → s'.mem.byteAt a = s.mem.byteAt a) → FetchesDefined i s → exec i s = .next t →
    ∃ t', exec i s' = .next t' ∧ t'.err = t.err ∧ t'.detail = t.detail ∧ t'.resultLen = t.resultLen ∧
      (t.err = 0#3 → ∀ a, s.dstAddr.toNat ≤ a → a < s.dstAddr.toNat + t.resultLen.toNat →
        t'.mem.byteAt a = t.mem.byteAt a)

/-- 30_encoding.md R104: the four codec commands do not read KEY_ADDR and KEY_LEN. -/
def Obligations.CodecsIgnoreKeyRegisters : Prop :=
  ∀ (i : Instr) (s : State) (x y : Word), isKeyed i = false →
    ∃ t, exec i s = .next t ∧ exec i { s with keyAddr := x, keyLen := y } = .next { t with keyAddr := x, keyLen := y }

/-! ## Reset -/

/-- 70_reset_and_hazards.md R340 and R344: reset clears every register and the command in progress, and keeps the model's
marks. What it does to buffer memory is `ResetAndBufferMemory`. -/
def Obligations.ResetClearsRegisters : Prop :=
  ∀ s : State, s.hostOp .reset = { s with
    srcAddr := 0#32, srcLen := 0#32, dstAddr := 0#32, dstCap := 0#32, keyAddr := 0#32, keyLen := 0#32
    busy := false, done := false, err := 0#3, detail := 0#8, resultLen := 0#32, cur := none
    mem := (s.hostOp .reset).mem }

/-- 70_reset_and_hazards.md R342 and R343: a reset while idle keeps every cell; one while BUSY = 1 abandons the command,
makes the cells of the DST region undefined and keeps every other. -/
def Obligations.ResetAndBufferMemory : Prop :=
  ∀ s : State,
    (s.busy = false → ∀ a, (s.hostOp .reset).mem.byteAt a = s.mem.byteAt a) ∧
    (s.busy = true → (s.hostOp .reset).busy = false ∧ (s.hostOp .reset).cur = none ∧ ∀ a,
      (s.dstAddr.toNat ≤ a ∧ a < s.dstAddr.toNat + s.dstCap.toNat → (s.hostOp .reset).mem.byteAt a = none) ∧
      (a < s.dstAddr.toNat ∨ s.dstAddr.toNat + s.dstCap.toNat ≤ a →
        (s.hostOp .reset).mem.byteAt a = s.mem.byteAt a))

/-- 70_reset_and_hazards.md R340 and R341, 10_state.md R31: at power-on every register reads 0, no command is in progress and
every cell is undefined; no mark is set (10_state.md R48, 60_exceptions.md R310). -/
def Obligations.PowerOnState : Prop :=
  (∀ off, State.reset.regValue off = 0#32) ∧ State.reset.cur = none ∧ State.reset.busy = false ∧
    (∀ a, State.reset.mem.byteAt a = none) ∧ State.reset.Unmarked ∧ State.reset.config.wf = true

/-! ## The whole machine -/

/-- 10_state.md R33, R40, R41 and R48, 60_exceptions.md R301: the power-on state meets the invariant. -/
def Obligations.PowerOnMeetsInvariant : Prop := State.reset.Inv

/-- 10_state.md R33, R40 and R41, 60_exceptions.md R301: every step keeps the invariant: `cur` is present exactly while
BUSY = 1, (BUSY, DONE) is never (1, 1), ERR and DETAIL name one cause or none, memory is canonical and inside
0..BUF_SIZE-1. -/
def Obligations.StepKeepsInvariant : Prop :=
  ∀ s t : State, s.Inv → step s = .next t → t.Inv

/-- 70_reset_and_hazards.md R344, 60_exceptions.md R310, 10_state.md R48: no step, a reset included, clears a model mark or
changes the configuration. -/
def Obligations.MarksAndConfigurationAreKept : Prop :=
  ∀ s t : State, step s = .next t →
    (s.refused = true → t.refused = true) ∧ (∀ f, s.fault = some f → t.fault = some f) ∧ t.config = s.config

/-- 60_exceptions.md R300 and R301, 10_state.md R33: the table of R301, cause by cause; every cause has a DETAIL code of its
own, never 0, and an ERR code among 1, 2, 3 and 5; so a legal state never holds a reserved ERR, and its ERR is 0 exactly when its DETAIL is. -/
def Obligations.ErrorCodesAreLegal : Prop :=
  (∀ d e : Detail, detailCode d = detailCode e → d = e) ∧
  (∀ d : Detail, detailCode d ≠ 0#8 ∧ errCode (kindOf d) ∈ [1#3, 2#3, 3#3, 5#3]) ∧
  ([(.unknownOpcode, 0x01#8, 1#3), (.reservedBits, 0x02#8, 1#3), (.srcRange, 0x03#8, 1#3), (.dstRange, 0x04#8, 1#3),
    (.keyRange, 0x05#8, 1#3), (.overlapSrcDst, 0x06#8, 1#3), (.overlapKeyDst, 0x07#8, 1#3), (.keyTooShort, 0x08#8, 1#3),
    (.feiBadLength, 0x10#8, 2#3), (.lzwBadFirstCode, 0x20#8, 2#3), (.lzwCodeAhead, 0x21#8, 2#3),
    (.huffHeaderTruncated, 0x30#8, 2#3), (.huffEmptyTree, 0x31#8, 2#3), (.huffBitsExhausted, 0x32#8, 2#3),
    (.huffOffTree, 0x33#8, 2#3), (.feiPadValue, 0x40#8, 3#3), (.feiPadMismatch, 0x41#8, 3#3),
    (.dstTooSmall, 0x50#8, 5#3)].Forall fun p => detailCode p.1 = p.2.1 ∧ errCode (kindOf p.1) = p.2.2) ∧
  (∀ s : State, s.Inv → s.err ≠ 4#3 ∧ s.err ≠ 6#3 ∧ s.err ≠ 7#3 ∧ (s.err = 0#3 ↔ s.detail = 0#8))

/-- 10_state.md R39: STATUS and RESULT_LEN change only at a command's start, at its completion and at a reset. -/
def Obligations.StatusChangesOnlyAtStartCompletionReset : Prop :=
  ∀ s t : State, step s = .next t → (statusWord t ≠ statusWord s ∨ t.resultLen ≠ s.resultLen) →
    (s.nextAgent = .host ∧ s.busy = false ∧ ∃ w rest, s.script = .regWrite 4 0x000 w :: rest ∧ t.cur = some w) ∨
    (s.nextAgent = .host ∧ ∃ rest, s.script = .reset :: rest) ∨
    (s.nextAgent = .engine ∧ s.busy = true ∧ t.busy = false ∧ t.done = true)

/-- 20_memory.md R78, 40_command_cycle.md R138, 70_reset_and_hazards.md R343: a buffer cell changes only by a host BufWrite
to it while idle, or, inside the DST region, by a completion or by a reset while BUSY = 1. -/
def Obligations.MemoryChangesOnlyByWriteCompletionReset : Prop :=
  ∀ (s t : State) (a : Nat), step s = .next t → t.mem.byteAt a ≠ s.mem.byteAt a →
    (s.nextAgent = .host ∧ s.busy = false ∧ a < s.config.bufSize ∧
      ∃ b rest, s.script = .bufWrite a b :: rest ∧ t.mem.byteAt a = some b) ∨
    (s.busy = true ∧ s.dstAddr.toNat ≤ a ∧ a < s.dstAddr.toNat + s.dstCap.toNat ∧
      (s.nextAgent = .engine ∨ (s.nextAgent = .host ∧ ∃ rest, s.script = .reset :: rest)))

/-- 70_reset_and_hazards.md R351 with 10_state.md R34 and R38: only an idle host register write or a reset changes a
configuration register. -/
def Obligations.OperandsChangeOnlyByHost : Prop :=
  ∀ s t : State, step s = .next t → ¬SameOperands s t →
    s.nextAgent = .host ∧
    ((s.busy = false ∧ ∃ off w rest, s.script = .regWrite 4 off w :: rest ∧ 0x008 ≤ off ∧ off ≤ 0x01C) ∨
      ∃ rest, s.script = .reset :: rest)

/-- 40_command_cycle.md R140: every command completes: `exec` of each of the six answers an idle, done state from any state,
and from a legal state with BUSY = 1, when the engine moves, the step is the completion of the word in progress. That a
command completes too when it fetches an undefined cell is the model's choice (assumption 6). -/
def Obligations.EveryCommandCompletes : Prop :=
  (∀ (i : Instr) (s : State), ∃ t, exec i s = .next t ∧ t.busy = false ∧ t.done = true ∧ t.cur = none) ∧
  ∀ s : State, s.config.wf = true → s.Inv → s.busy = true → s.nextAgent = .engine →
    ∃ t, step s = .next t ∧ t.busy = false ∧ t.done = true ∧ t.cur = none

/-- 70_reset_and_hazards.md R349, 40_command_cycle.md R140: any number of host steps may pass between a start and its
completion, whatever operations other than a reset the host issues: they leave the command in progress, every register
and buffer memory as they were, and the engine moves next. STATUS reads among them return BUSY = 1. The schedule, and
what a host turn past the end of the script does, are the model's (assumptions 1, 13 and 14). -/
def Obligations.HostTurnsMayPrecedeCompletion : Prop :=
  ∀ (s : State) (n : Nat), s.config.wf = true → s.busy = true → s.turns = List.replicate n .host →
    (.reset ∉ s.script → ∃ t, Sys2Proof.core.run n s = .next t ∧ t.nextAgent = .engine ∧
      t = { s with turns := [], script := t.script, responses := t.responses, refused := t.refused, fault := t.fault }) ∧
    (∀ rest, s.Inv → s.script = List.replicate n (.regRead 4 0x004) ++ rest →
      Sys2Proof.core.run n s = .next { s with
        turns := [], script := rest, responses := List.replicate n (.word 0x004 1#32) ++ s.responses })

/-! ## The Feistel unit -/

/-- 43_feistel.md R241: DES bit `j` of `Perm(T, Nin, v)` is DES bit `T[j]` of `v`. -/
def Obligations.PermSelectsTableBits : Prop :=
  ∀ (n m : Nat) (t : List Nat) (v : BitVec n) (j : Nat), t.length = m → (∀ k ∈ t, 1 ≤ k ∧ k ≤ n) →
    1 ≤ j → j ≤ m → dbit (perm m t v) j = dbit v (t.getD (j - 1) 0)

/-- 43_feistel.md R257: FEI_FP undoes a legal FEI_IP. -/
def Obligations.FinalPermutationInvertsInitial : Prop :=
  ∀ (c : Config) (v : BitVec 64), c.ipOk = true →
    (∀ j, 1 ≤ j → j ≤ 64 → (inverseTable c.ip).getD (c.ip.getD (j - 1) 0 - 1) 0 = j) ∧
    perm 64 (inverseTable c.ip) (perm 64 c.ip v : BitVec 64) = v

/-- 43_feistel.md R244: `rotl28` rotates left, by DES bit numbers (bit 1 the most significant). R250: the shifts, which sum to
28; subkey `i` is FEI_PC2 of both halves of FEI_PC1 of the key, each rotated left by the sum of the first `i` shifts; so
both halves are back after round 16, and there are 16 subkeys. -/
def Obligations.RotationsReturnAfterSixteenRounds : Prop :=
  (∀ (x : BitVec 28) (n j : Nat), 1 ≤ n → n ≤ 2 → 1 ≤ j → j ≤ 28 →
    dbit (rotl28 x n) j = dbit x (if j + n ≤ 28 then j + n else j + n - 28)) ∧
  feiShifts = [1, 1, 2, 2, 2, 2, 2, 2, 1, 2, 2, 2, 2, 2, 2, 1] ∧ feiShifts.sum = 28 ∧
  (∀ (c : Config) (k : BitVec 64) (i : Nat), 1 ≤ i → i ≤ 16 →
    (keySchedule c k)[i - 1]? = some (perm 48 c.pc2
      (((perm 56 c.pc1 k : BitVec 56).extractLsb' 28 28).rotateLeft (feiShifts.take i).sum ++
        ((perm 56 c.pc1 k : BitVec 56).extractLsb' 0 28).rotateLeft (feiShifts.take i).sum))) ∧
  (∀ x : BitVec 28, feiShifts.foldl rotl28 x = x) ∧
  (∀ (c : Config) (k : BitVec 64), (keySchedule c k).length = 16)

/-- 43_feistel.md R252: with the default FEI_PC1 the least significant bit of every key byte has no effect. -/
def Obligations.ParityBitsHaveNoEffect : Prop :=
  ∀ (c : Config) (k k' : BitVec 64), c.pc1 = defaultConfig.pc1 →
    (∀ j, 1 ≤ j → j ≤ 64 → j % 8 ≠ 0 → dbit k j = dbit k' j) → keySchedule c k = keySchedule c k'

/-- 43_feistel.md R259: deciphering with the subkeys in reverse order undoes a block, for any tables with a legal
FEI_IP. -/
def Obligations.BlockWithReversedSubkeysInverts : Prop :=
  ∀ (c : Config) (b : BitVec 64) (ks : List (BitVec 48)), c.ipOk = true → block c (block c b ks) ks.reverse = b

/-- 43_feistel.md R260: ECB enciphers each block independently, and equal blocks to equal blocks. -/
def Obligations.EcbBlocksAreIndependent : Prop :=
  ∀ (c : Config) (x y : Bytes) (ks : List (BitVec 48)), x.length % 8 = 0 →
    ecb c (x ++ y) ks = ecb c x ks ++ ecb c y ks ∧
    (x.length = 8 → ecb c x ks = toBe 8 (block c (BitVec.ofNat 64 (be x)) ks).toNat)

/-- 43_feistel.md R274: decryption undoes encryption, for every plaintext and every key of at least 8 bytes. -/
def Obligations.FeistelRoundTrip : Prop :=
  ∀ (c : Config) (x key8 : Bytes) (keylen : Nat), c.wf = true → 8 ≤ keylen →
    ∃ out, feiEncrypt c x keylen key8 = .ok out ∧ feiDecrypt c out keylen key8 = .ok x

/-- 43_feistel.md R275: the lengths of ciphertext and plaintext. -/
def Obligations.FeistelLengths : Prop :=
  ∀ (c : Config) (x y key8 : Bytes) (keylen : Nat),
    (feiEncrypt c x keylen key8 = .ok y → y.length = 8 * (x.length / 8 + 1) ∧ x.length < y.length) ∧
    (feiDecrypt c x keylen key8 = .ok y → x.length ≤ y.length + 8 ∧ y.length + 1 ≤ x.length)

/-! ## The LZW unit -/

/-- 41_lzw.md R163 and R164. The bits of a byte sequence, each byte's bit 7 first. The bits of packed codes are the 12 bits of
each code in order, bit 11 first, and after an odd number of codes four zero bits. The codes read from a stream are its
first `12n` bits in the same order, whatever bits trail. So unpacking packed codes gives them back, the packed length is
`(3n+1)/2`, and a stream holds `8 * len / 12` whole codes. -/
def Obligations.UnpackUndoesPack : Prop :=
  (∀ (s : Bytes) (k : Nat), k < 8 * s.length →
    (bitsOfBytes s)[k]? = some ((s.getD (k / 8) 0#8).getLsbD (7 - k % 8))) ∧
  (∀ codes : List Code, bitsOfBytes (pack12 codes) =
    codes.flatMap codeBits ++ List.replicate (if codes.length % 2 = 1 then 4 else 0) false) ∧
  (∀ s : Bytes, (unpack12 s).flatMap codeBits = (bitsOfBytes s).take (12 * (8 * s.length / 12))) ∧
  (∀ codes : List Code, unpack12 (pack12 codes) = codes ∧ (pack12 codes).length = (3 * codes.length + 1) / 2) ∧
  (∀ s : Bytes, (unpack12 s).length = 8 * s.length / 12)

/-- 41_lzw.md R169: decompression undoes compression. -/
def Obligations.LzwRoundTrip : Prop :=
  ∀ x : Bytes, ∃ out, lzwCompress x = .ok out ∧ lzwDecompress out = .ok x

/-- 41_lzw.md R161: the fresh dictionary. R162: an entry is added at the end until there are 4096, then none. R165: the
compressor's loop over a dictionary: it extends the match while the longer string is an entry, otherwise emits the code
of the match, adds the longer string and restarts, and emits the last match at the end; the code of an entry is its
place. R170: so a nonempty input of `L` bytes gives between 1 and `L` codes, and its compressed length follows. -/
def Obligations.LzwCodeCountBounds : Prop :=
  (freshDict.length = 256 ∧ ∀ c, c < 256 → freshDict[c]? = some [BitVec.ofNat 8 c]) ∧
  (∀ (d : Dict) (s : Bytes), (d.length < 4096 → dictAdd d s = d ++ [s]) ∧ (4096 ≤ d.length → dictAdd d s = d)) ∧
  (lzwEncodeCodes [] = [] ∧ ∀ b rest, lzwEncodeCodes (b :: rest) = lzwEncodeLoop freshDict [b] rest) ∧
  (∀ (d : Dict) (w : Bytes) (c : Byte) (rest : Bytes),
    lzwEncodeLoop d w [] = [codeOf d w] ∧
    (w ++ [c] ∈ d → lzwEncodeLoop d w (c :: rest) = lzwEncodeLoop d (w ++ [c]) rest) ∧
    (w ++ [c] ∉ d →
      lzwEncodeLoop d w (c :: rest) = codeOf d w :: lzwEncodeLoop (dictAdd d (w ++ [c])) [c] rest)) ∧
  (∀ (d : Dict) (w : Bytes), d.length ≤ 4096 → w ∈ d → d[(codeOf d w).toNat]? = some w) ∧
  (∀ x out : Bytes, x ≠ [] → lzwCompress x = .ok out →
    1 ≤ (lzwEncodeCodes x).length ∧ (lzwEncodeCodes x).length ≤ x.length ∧ out.length ≤ (3 * x.length + 1) / 2)

/-- 41_lzw.md R167 on the first two codes: the first above 255 fails, whatever follows (90_conflicts.md C2); the second is a
single byte below 256, the special case at 256, and too far ahead above it. Then the same for every later code, over the
dictionary `d` and the entry `prev` before it: a known code, the special case, or an error; the output grows by the
entry, and `prev` with the entry's first byte is added (R162). A stream is decoded by that loop from the fresh dictionary
(R161) and its first code's byte; no code gives no byte, so a stream of 0 or 1 bytes does (R168). -/
def Obligations.LzwFirstTwoCodes : Prop :=
  (lzwDecodeCodes [] = .ok [] ∧ lzwDecompress [] = .ok [] ∧ ∀ b, lzwDecompress [b] = .ok []) ∧
  (∀ (a : Code) (rest : List Code), a.toNat ≤ 255 →
    (∀ out, lzwDecodeLoop freshDict [a.setWidth 8] rest = .ok out → lzwDecodeCodes (a :: rest) = .ok (a.setWidth 8 :: out)) ∧
    (∀ x, lzwDecodeLoop freshDict [a.setWidth 8] rest = .error x → lzwDecodeCodes (a :: rest) = .error x)) ∧
  (∀ (d : Dict) (prev e : Bytes) (c : Code) (rest : List Code),
    lzwDecodeLoop d prev [] = .ok [] ∧
    (d[c.toNat]? = some e ∨ (c.toNat = d.length ∧ e = prev ++ prev.take 1) →
      (∀ x, lzwDecodeLoop d prev (c :: rest) = .error x ↔ lzwDecodeLoop (dictAdd d (prev ++ e.take 1)) e rest = .error x) ∧
      (∀ out, lzwDecodeLoop (dictAdd d (prev ++ e.take 1)) e rest = .ok out →
        lzwDecodeLoop d prev (c :: rest) = .ok (e ++ out))) ∧
    (d.length < c.toNat → lzwDecodeLoop d prev (c :: rest) = .error .lzwCodeAhead)) ∧
  ∀ (a b : Code) (rest : List Code),
    (255 < a.toNat → lzwDecodeCodes (a :: rest) = .error .lzwBadFirstCode) ∧
    (a.toNat ≤ 255 → b.toNat ≤ 255 → lzwDecodeCodes [a, b] = .ok [a.setWidth 8, b.setWidth 8]) ∧
    (a.toNat ≤ 255 → b.toNat = 256 → lzwDecodeCodes [a, b] = .ok [a.setWidth 8, a.setWidth 8, a.setWidth 8]) ∧
    (a.toNat ≤ 255 → 256 < b.toNat → lzwDecodeCodes (a :: b :: rest) = .error .lzwCodeAhead)

/-! ## The Huffman unit -/

/-- 42_huffman.md R206: the bits of the artifact's body, from byte 1284 on and each byte's bit 7 first, are the codewords of
the original's bytes in order and then fewer than 8 zero bits; so the artifact's length is 1284 plus the codeword bits
rounded up to bytes. -/
def Obligations.HuffArtifactLength : Prop :=
  ∀ src out : Bytes, huffCompress src = .ok out →
    (∃ n, n < 8 ∧ bitsOfBytes (out.drop 1284) =
      src.flatMap (codewordOf (codeTable (buildTree (frequencies src)))) ++ List.replicate n false) ∧
    out.length = 1284 + (((List.range 256).map (fun b =>
      (frequencies src).getD b 0 *
        (codewordOf (codeTable (buildTree (frequencies src))) (BitVec.ofNat 8 b)).length)).sum + 7) / 8

/-- 42_huffman.md R200 and R211: an artifact's header holds the original length and the frequency table, and beside it the
codeword lengths of the tree built from that table. -/
def Obligations.HuffHeaderContents : Prop :=
  ∀ src out : Bytes, src.length < 2 ^ 32 → huffCompress src = .ok out →
    be (out.take 4) = src.length ∧ artifactFreq out = frequencies src ∧
    ∀ b, b < 256 → (out.getD (4 + b) 0#8).toNat =
      (codewordOf (codeTable (buildTree (artifactFreq out))) (BitVec.ofNat 8 b)).length

/-- 42_huffman.md R203: an insertion puts the node last and moves it up past each parent that is strictly heavier; an
extraction takes the first node, puts the last in its place and moves it down past the lighter child where that child is
strictly lighter, the left one on a tie between the children. So the two operations keep the min-heap order and the
nodes, and an extraction answers a node of least weight. R204: the tree is built from the table's leaves: none for no leaf, the one-bit codeword 0 for a single one,
and otherwise by merging the two nodes extracted first, the first as the left child, until one is left. R205: a step to the
left child is a 0 and one to the right child a 1; no codeword of a built tree is the start of another, and each is 1 to 255 bits long. -/
def Obligations.CodewordsArePrefixFree : Prop :=
  (∀ (h : Heap) (n : Node), heapInsert h n = siftUp h.length (h ++ [n]) h.length ∧
    (h = [] ∨ heapWeight h ((h.length - 1) / 2) ≤ n.weight → heapInsert h n = h ++ [n])) ∧
  (∀ (h : Heap) (k i : Nat),
    siftUp k h 0 = h ∧
    (heapWeight h ((i - 1) / 2) ≤ heapWeight h i → siftUp k h i = h) ∧
    (0 < i → heapWeight h i < heapWeight h ((i - 1) / 2) →
      siftUp (k + 1) h i = siftUp k (heapSwap h i ((i - 1) / 2)) ((i - 1) / 2))) ∧
  (heapExtract [] = none ∧ (∀ n, heapExtract [n] = some (n, [])) ∧
    ∀ (top last : Node) (mid : List Node),
      heapExtract (top :: (mid ++ [last])) = some (top, siftDown (mid.length + 1) (last :: mid) 0)) ∧
  (∀ (h : Heap) (k i : Nat),
    ((2 * i + 1 < h.length → heapWeight h i ≤ heapWeight h (2 * i + 1)) →
      (2 * i + 2 < h.length → heapWeight h i ≤ heapWeight h (2 * i + 2)) → siftDown k h i = h) ∧
    (2 * i + 1 < h.length → heapWeight h (2 * i + 1) < heapWeight h i →
      (2 * i + 2 < h.length → heapWeight h (2 * i + 1) ≤ heapWeight h (2 * i + 2)) →
      siftDown (k + 1) h i = siftDown k (heapSwap h i (2 * i + 1)) (2 * i + 1)) ∧
    (2 * i + 2 < h.length → heapWeight h (2 * i + 2) < heapWeight h i →
      heapWeight h (2 * i + 2) < heapWeight h (2 * i + 1) →
      siftDown (k + 1) h i = siftDown k (heapSwap h i (2 * i + 2)) (2 * i + 2))) ∧
  (∀ (h : Heap) (i j x : Nat), i < h.length → j < h.length →
    (heapSwap h i j)[x]? = if x = i then h[j]? else if x = j then h[i]? else h[x]?) ∧
  (∀ (b : Byte) (w : Nat) (l r : Node),
    codewords (.leaf b w) = [(b, [])] ∧
    codewords (.synthetic w l) = (codewords l).map (fun p => (p.1, false :: p.2)) ∧
    codewords (.internal w l r) =
      (codewords l).map (fun p => (p.1, false :: p.2)) ++ (codewords r).map (fun p => (p.1, true :: p.2))) ∧
  (∀ (h : Heap) (n : Node), HeapOrdered h → HeapOrdered (heapInsert h n) ∧ (heapInsert h n).Perm (n :: h)) ∧
  (∀ (h rest : Heap) (n : Node), HeapOrdered h → heapExtract h = some (n, rest) →
    (∀ x ∈ h, n.weight ≤ x.weight) ∧ HeapOrdered rest ∧ h.Perm (n :: rest)) ∧
  (∀ freq : List Nat, HeapOrdered (leafHeap freq) ∧ (leafHeap freq).Perm (leavesOf freq) ∧
    (leavesOf freq = [] → buildTree freq = none) ∧
    (2 ≤ (leavesOf freq).length → buildTree freq = mergeLoop (leavesOf freq).length (leafHeap freq))) ∧
  (∀ (k : Nat) (h h1 h2 : Heap) (a b : Node), heapExtract h = some (a, h1) →
    (h1 = [] → mergeLoop (k + 1) h = some a) ∧
    (heapExtract h1 = some (b, h2) →
      mergeLoop (k + 1) h = mergeLoop k (heapInsert h2 (.internal (a.weight + b.weight) a b)))) ∧
  (∀ (freq : List Nat) (b : Nat), b < freq.length → freq.length = 256 → 0 < freq.getD b 0 →
    (∀ x, x ≠ b → freq.getD x 0 = 0) → codeTable (buildTree freq) = [(BitVec.ofNat 8 b, [false])]) ∧
  ∀ (freq : List Nat) (root : Node), freq.length = 256 → buildTree freq = some root →
    (∀ p ∈ codewords root, ∀ q ∈ codewords root, p ≠ q → ¬(p.2 <+: q.2)) ∧
    (∀ p ∈ codewords root, 1 ≤ p.2.length ∧ p.2.length ≤ 255)

/-- 42_huffman.md R210: decompression undoes compression. -/
def Obligations.HuffmanRoundTrip : Prop :=
  ∀ x : Bytes, x.length < 2 ^ 32 → ∃ out, huffCompress x = .ok out ∧ huffDecompress out = .ok x

/-- 42_huffman.md R208 and R211: the code_len table does not change the outcome, and a decoded output has the recorded
original length. -/
def Obligations.HuffDecompIgnoresCodeLengths : Prop :=
  ∀ hd cl cl' rest : Bytes, hd.length = 4 → cl.length = 256 → cl'.length = 256 →
    huffDecompress (hd ++ cl ++ rest) = huffDecompress (hd ++ cl' ++ rest) ∧
    (∀ out, huffDecompress (hd ++ cl ++ rest) = .ok out → out.length = be hd)

/-! ## The Feistel unit's round -/

/-- 43_feistel.md R254: output nibble `i + 1` of the S-box layer is the entry of box `i + 1` that its own 6-bit group selects,
the row from the outer bits and the column from the inner ones, by DES bit numbers. R253, R255 and R256: the round
function expands by FEI_E, XORs the subkey, looks up and permutes by FEI_P. R257: one round, and the swap at the end. -/
def Obligations.RoundFunctionAndRounds : Prop :=
  ∀ c : Config, c.wf = true →
    (∀ (x : BitVec 48) (i row col : Nat), i < 8 →
      row = 2 * (dbit x (6 * i + 1)).toNat + (dbit x (6 * i + 6)).toNat →
      col = 8 * (dbit x (6 * i + 2)).toNat + 4 * (dbit x (6 * i + 3)).toNat + 2 * (dbit x (6 * i + 4)).toNat +
        (dbit x (6 * i + 5)).toNat →
      ∀ j, 1 ≤ j → j ≤ 4 →
        dbit (sBoxes c x) (4 * i + j) = (((c.sboxes.getD i []).getD row []).getD col 0).testBit (4 - j)) ∧
    (∀ (r : BitVec 32) (k y : BitVec 48),
      (∀ j, 1 ≤ j → j ≤ 48 → dbit y j = (dbit r (c.expansion.getD (j - 1) 0) ^^ dbit k j)) →
      ∀ j, 1 ≤ j → j ≤ 32 → dbit (feistelF c r k) j = dbit (sBoxes c y) (c.pout.getD (j - 1) 0)) ∧
    (∀ (b : BitVec 64) (l r : BitVec 32), perm 64 c.ip b = l ++ r →
      block c b [] = perm 64 (inverseTable c.ip) (r ++ l) ∧
      ∀ (b' : BitVec 64) (k : BitVec 48) (ks : List (BitVec 48)),
        perm 64 c.ip b' = r ++ (l ^^^ feistelF c r k) → block c b (k :: ks) = block c b' ks)
end

