-- ==== Sys2Proof/Laws/State.lean ====
section
/-!
SUPPORT. What each update of the state does to each field, one simp lemma per field per update, so that no later proof
unfolds a record update.
-/

namespace Sys2Proof.Machine

/-! ## State.start: a command's start (R132) -/

@[simp] theorem State.start_srcAddr (s : State) (w : Word) : (s.start w).srcAddr = s.srcAddr := rfl
@[simp] theorem State.start_srcLen (s : State) (w : Word) : (s.start w).srcLen = s.srcLen := rfl
@[simp] theorem State.start_dstAddr (s : State) (w : Word) : (s.start w).dstAddr = s.dstAddr := rfl
@[simp] theorem State.start_dstCap (s : State) (w : Word) : (s.start w).dstCap = s.dstCap := rfl
@[simp] theorem State.start_keyAddr (s : State) (w : Word) : (s.start w).keyAddr = s.keyAddr := rfl
@[simp] theorem State.start_keyLen (s : State) (w : Word) : (s.start w).keyLen = s.keyLen := rfl
@[simp] theorem State.start_busy (s : State) (w : Word) : (s.start w).busy = true := rfl
@[simp] theorem State.start_done (s : State) (w : Word) : (s.start w).done = false := rfl
@[simp] theorem State.start_err (s : State) (w : Word) : (s.start w).err = 0#3 := rfl
@[simp] theorem State.start_detail (s : State) (w : Word) : (s.start w).detail = 0#8 := rfl
@[simp] theorem State.start_resultLen (s : State) (w : Word) : (s.start w).resultLen = 0#32 := rfl
@[simp] theorem State.start_cur (s : State) (w : Word) : (s.start w).cur = some w := rfl
@[simp] theorem State.start_mem (s : State) (w : Word) : (s.start w).mem = s.mem := rfl
@[simp] theorem State.start_refused (s : State) (w : Word) : (s.start w).refused = s.refused := rfl
@[simp] theorem State.start_fault (s : State) (w : Word) : (s.start w).fault = s.fault := rfl
@[simp] theorem State.start_config (s : State) (w : Word) : (s.start w).config = s.config := rfl
@[simp] theorem State.start_script (s : State) (w : Word) : (s.start w).script = s.script := rfl
@[simp] theorem State.start_turns (s : State) (w : Word) : (s.start w).turns = s.turns := rfl
@[simp] theorem State.start_responses (s : State) (w : Word) : (s.start w).responses = s.responses := rfl
@[simp] theorem State.start_draws (s : State) (w : Word) : (s.start w).draws = s.draws := rfl

/-! ## State.commitOk: a successful completion (R137) -/

@[simp] theorem State.commitOk_srcAddr (s : State) (out : Bytes) : (s.commitOk out).srcAddr = s.srcAddr := rfl
@[simp] theorem State.commitOk_srcLen (s : State) (out : Bytes) : (s.commitOk out).srcLen = s.srcLen := rfl
@[simp] theorem State.commitOk_dstAddr (s : State) (out : Bytes) : (s.commitOk out).dstAddr = s.dstAddr := rfl
@[simp] theorem State.commitOk_dstCap (s : State) (out : Bytes) : (s.commitOk out).dstCap = s.dstCap := rfl
@[simp] theorem State.commitOk_keyAddr (s : State) (out : Bytes) : (s.commitOk out).keyAddr = s.keyAddr := rfl
@[simp] theorem State.commitOk_keyLen (s : State) (out : Bytes) : (s.commitOk out).keyLen = s.keyLen := rfl
@[simp] theorem State.commitOk_busy (s : State) (out : Bytes) : (s.commitOk out).busy = false := rfl
@[simp] theorem State.commitOk_done (s : State) (out : Bytes) : (s.commitOk out).done = true := rfl
@[simp] theorem State.commitOk_err (s : State) (out : Bytes) : (s.commitOk out).err = 0#3 := rfl
@[simp] theorem State.commitOk_detail (s : State) (out : Bytes) : (s.commitOk out).detail = 0#8 := rfl
@[simp] theorem State.commitOk_resultLen (s : State) (out : Bytes) : (s.commitOk out).resultLen = BitVec.ofNat 32 out.length := rfl
@[simp] theorem State.commitOk_cur (s : State) (out : Bytes) : (s.commitOk out).cur = none := rfl
@[simp] theorem State.commitOk_mem (s : State) (out : Bytes) : (s.commitOk out).mem = s.mem.write s.dstAddr.toNat out := rfl
@[simp] theorem State.commitOk_refused (s : State) (out : Bytes) : (s.commitOk out).refused = s.refused := rfl
@[simp] theorem State.commitOk_fault (s : State) (out : Bytes) : (s.commitOk out).fault = s.fault := rfl
@[simp] theorem State.commitOk_config (s : State) (out : Bytes) : (s.commitOk out).config = s.config := rfl
@[simp] theorem State.commitOk_script (s : State) (out : Bytes) : (s.commitOk out).script = s.script := rfl
@[simp] theorem State.commitOk_turns (s : State) (out : Bytes) : (s.commitOk out).turns = s.turns := rfl
@[simp] theorem State.commitOk_responses (s : State) (out : Bytes) : (s.commitOk out).responses = s.responses := rfl
@[simp] theorem State.commitOk_draws (s : State) (out : Bytes) : (s.commitOk out).draws = s.draws := rfl

/-! ## State.commitError: an error completion (R137) -/

@[simp] theorem State.commitError_srcAddr (s : State) (d : Detail) : (s.commitError d).srcAddr = s.srcAddr := rfl
@[simp] theorem State.commitError_srcLen (s : State) (d : Detail) : (s.commitError d).srcLen = s.srcLen := rfl
@[simp] theorem State.commitError_dstAddr (s : State) (d : Detail) : (s.commitError d).dstAddr = s.dstAddr := rfl
@[simp] theorem State.commitError_dstCap (s : State) (d : Detail) : (s.commitError d).dstCap = s.dstCap := rfl
@[simp] theorem State.commitError_keyAddr (s : State) (d : Detail) : (s.commitError d).keyAddr = s.keyAddr := rfl
@[simp] theorem State.commitError_keyLen (s : State) (d : Detail) : (s.commitError d).keyLen = s.keyLen := rfl
@[simp] theorem State.commitError_busy (s : State) (d : Detail) : (s.commitError d).busy = false := rfl
@[simp] theorem State.commitError_done (s : State) (d : Detail) : (s.commitError d).done = true := rfl
@[simp] theorem State.commitError_err (s : State) (d : Detail) : (s.commitError d).err = errCode (kindOf d) := rfl
@[simp] theorem State.commitError_detail (s : State) (d : Detail) : (s.commitError d).detail = detailCode d := rfl
@[simp] theorem State.commitError_resultLen (s : State) (d : Detail) : (s.commitError d).resultLen = 0#32 := rfl
@[simp] theorem State.commitError_cur (s : State) (d : Detail) : (s.commitError d).cur = none := rfl
@[simp] theorem State.commitError_mem (s : State) (d : Detail) : (s.commitError d).mem = s.memAfterError d := rfl
@[simp] theorem State.commitError_refused (s : State) (d : Detail) : (s.commitError d).refused = s.refused := rfl
@[simp] theorem State.commitError_fault (s : State) (d : Detail) : (s.commitError d).fault = s.fault := rfl
@[simp] theorem State.commitError_config (s : State) (d : Detail) : (s.commitError d).config = s.config := rfl
@[simp] theorem State.commitError_script (s : State) (d : Detail) : (s.commitError d).script = s.script := rfl
@[simp] theorem State.commitError_turns (s : State) (d : Detail) : (s.commitError d).turns = s.turns := rfl
@[simp] theorem State.commitError_responses (s : State) (d : Detail) : (s.commitError d).responses = s.responses := rfl
@[simp] theorem State.commitError_draws (s : State) (d : Detail) : (s.commitError d).draws = s.draws := rfl

/-! ## State.applyReset: reset (R340) -/

@[simp] theorem State.applyReset_srcAddr (s : State) : (s.applyReset).srcAddr = 0#32 := rfl
@[simp] theorem State.applyReset_srcLen (s : State) : (s.applyReset).srcLen = 0#32 := rfl
@[simp] theorem State.applyReset_dstAddr (s : State) : (s.applyReset).dstAddr = 0#32 := rfl
@[simp] theorem State.applyReset_dstCap (s : State) : (s.applyReset).dstCap = 0#32 := rfl
@[simp] theorem State.applyReset_keyAddr (s : State) : (s.applyReset).keyAddr = 0#32 := rfl
@[simp] theorem State.applyReset_keyLen (s : State) : (s.applyReset).keyLen = 0#32 := rfl
@[simp] theorem State.applyReset_busy (s : State) : (s.applyReset).busy = false := rfl
@[simp] theorem State.applyReset_done (s : State) : (s.applyReset).done = false := rfl
@[simp] theorem State.applyReset_err (s : State) : (s.applyReset).err = 0#3 := rfl
@[simp] theorem State.applyReset_detail (s : State) : (s.applyReset).detail = 0#8 := rfl
@[simp] theorem State.applyReset_resultLen (s : State) : (s.applyReset).resultLen = 0#32 := rfl
@[simp] theorem State.applyReset_cur (s : State) : (s.applyReset).cur = none := rfl
@[simp] theorem State.applyReset_mem (s : State) : (s.applyReset).mem = s.memAfterReset := rfl
@[simp] theorem State.applyReset_refused (s : State) : (s.applyReset).refused = s.refused := rfl
@[simp] theorem State.applyReset_fault (s : State) : (s.applyReset).fault = s.fault := rfl
@[simp] theorem State.applyReset_config (s : State) : (s.applyReset).config = s.config := rfl
@[simp] theorem State.applyReset_script (s : State) : (s.applyReset).script = s.script := rfl
@[simp] theorem State.applyReset_turns (s : State) : (s.applyReset).turns = s.turns := rfl
@[simp] theorem State.applyReset_responses (s : State) : (s.applyReset).responses = s.responses := rfl
@[simp] theorem State.applyReset_draws (s : State) : (s.applyReset).draws = s.draws := rfl

/-! ## State.markFault: the fault mark (R310) -/

@[simp] theorem State.markFault_srcAddr (s : State) (f : Fault) : (s.markFault f).srcAddr = s.srcAddr := rfl
@[simp] theorem State.markFault_srcLen (s : State) (f : Fault) : (s.markFault f).srcLen = s.srcLen := rfl
@[simp] theorem State.markFault_dstAddr (s : State) (f : Fault) : (s.markFault f).dstAddr = s.dstAddr := rfl
@[simp] theorem State.markFault_dstCap (s : State) (f : Fault) : (s.markFault f).dstCap = s.dstCap := rfl
@[simp] theorem State.markFault_keyAddr (s : State) (f : Fault) : (s.markFault f).keyAddr = s.keyAddr := rfl
@[simp] theorem State.markFault_keyLen (s : State) (f : Fault) : (s.markFault f).keyLen = s.keyLen := rfl
@[simp] theorem State.markFault_busy (s : State) (f : Fault) : (s.markFault f).busy = s.busy := rfl
@[simp] theorem State.markFault_done (s : State) (f : Fault) : (s.markFault f).done = s.done := rfl
@[simp] theorem State.markFault_err (s : State) (f : Fault) : (s.markFault f).err = s.err := rfl
@[simp] theorem State.markFault_detail (s : State) (f : Fault) : (s.markFault f).detail = s.detail := rfl
@[simp] theorem State.markFault_resultLen (s : State) (f : Fault) : (s.markFault f).resultLen = s.resultLen := rfl
@[simp] theorem State.markFault_cur (s : State) (f : Fault) : (s.markFault f).cur = s.cur := rfl
@[simp] theorem State.markFault_mem (s : State) (f : Fault) : (s.markFault f).mem = s.mem := rfl
@[simp] theorem State.markFault_refused (s : State) (f : Fault) : (s.markFault f).refused = s.refused := rfl
@[simp] theorem State.markFault_fault (s : State) (f : Fault) : (s.markFault f).fault = s.fault.or (some f) := rfl
@[simp] theorem State.markFault_config (s : State) (f : Fault) : (s.markFault f).config = s.config := rfl
@[simp] theorem State.markFault_script (s : State) (f : Fault) : (s.markFault f).script = s.script := rfl
@[simp] theorem State.markFault_turns (s : State) (f : Fault) : (s.markFault f).turns = s.turns := rfl
@[simp] theorem State.markFault_responses (s : State) (f : Fault) : (s.markFault f).responses = s.responses := rfl
@[simp] theorem State.markFault_draws (s : State) (f : Fault) : (s.markFault f).draws = s.draws := rfl

/-! ## State.markRefused: the refusal mark (R310) -/

@[simp] theorem State.markRefused_srcAddr (s : State) : (s.markRefused).srcAddr = s.srcAddr := rfl
@[simp] theorem State.markRefused_srcLen (s : State) : (s.markRefused).srcLen = s.srcLen := rfl
@[simp] theorem State.markRefused_dstAddr (s : State) : (s.markRefused).dstAddr = s.dstAddr := rfl
@[simp] theorem State.markRefused_dstCap (s : State) : (s.markRefused).dstCap = s.dstCap := rfl
@[simp] theorem State.markRefused_keyAddr (s : State) : (s.markRefused).keyAddr = s.keyAddr := rfl
@[simp] theorem State.markRefused_keyLen (s : State) : (s.markRefused).keyLen = s.keyLen := rfl
@[simp] theorem State.markRefused_busy (s : State) : (s.markRefused).busy = s.busy := rfl
@[simp] theorem State.markRefused_done (s : State) : (s.markRefused).done = s.done := rfl
@[simp] theorem State.markRefused_err (s : State) : (s.markRefused).err = s.err := rfl
@[simp] theorem State.markRefused_detail (s : State) : (s.markRefused).detail = s.detail := rfl
@[simp] theorem State.markRefused_resultLen (s : State) : (s.markRefused).resultLen = s.resultLen := rfl
@[simp] theorem State.markRefused_cur (s : State) : (s.markRefused).cur = s.cur := rfl
@[simp] theorem State.markRefused_mem (s : State) : (s.markRefused).mem = s.mem := rfl
@[simp] theorem State.markRefused_refused (s : State) : (s.markRefused).refused = true := rfl
@[simp] theorem State.markRefused_fault (s : State) : (s.markRefused).fault = s.fault := rfl
@[simp] theorem State.markRefused_config (s : State) : (s.markRefused).config = s.config := rfl
@[simp] theorem State.markRefused_script (s : State) : (s.markRefused).script = s.script := rfl
@[simp] theorem State.markRefused_turns (s : State) : (s.markRefused).turns = s.turns := rfl
@[simp] theorem State.markRefused_responses (s : State) : (s.markRefused).responses = s.responses := rfl
@[simp] theorem State.markRefused_draws (s : State) : (s.markRefused).draws = s.draws := rfl

/-! ## State.respond: a port's response -/

@[simp] theorem State.respond_srcAddr (s : State) (r : Response) : (s.respond r).srcAddr = s.srcAddr := rfl
@[simp] theorem State.respond_srcLen (s : State) (r : Response) : (s.respond r).srcLen = s.srcLen := rfl
@[simp] theorem State.respond_dstAddr (s : State) (r : Response) : (s.respond r).dstAddr = s.dstAddr := rfl
@[simp] theorem State.respond_dstCap (s : State) (r : Response) : (s.respond r).dstCap = s.dstCap := rfl
@[simp] theorem State.respond_keyAddr (s : State) (r : Response) : (s.respond r).keyAddr = s.keyAddr := rfl
@[simp] theorem State.respond_keyLen (s : State) (r : Response) : (s.respond r).keyLen = s.keyLen := rfl
@[simp] theorem State.respond_busy (s : State) (r : Response) : (s.respond r).busy = s.busy := rfl
@[simp] theorem State.respond_done (s : State) (r : Response) : (s.respond r).done = s.done := rfl
@[simp] theorem State.respond_err (s : State) (r : Response) : (s.respond r).err = s.err := rfl
@[simp] theorem State.respond_detail (s : State) (r : Response) : (s.respond r).detail = s.detail := rfl
@[simp] theorem State.respond_resultLen (s : State) (r : Response) : (s.respond r).resultLen = s.resultLen := rfl
@[simp] theorem State.respond_cur (s : State) (r : Response) : (s.respond r).cur = s.cur := rfl
@[simp] theorem State.respond_mem (s : State) (r : Response) : (s.respond r).mem = s.mem := rfl
@[simp] theorem State.respond_refused (s : State) (r : Response) : (s.respond r).refused = s.refused := rfl
@[simp] theorem State.respond_fault (s : State) (r : Response) : (s.respond r).fault = s.fault := rfl
@[simp] theorem State.respond_config (s : State) (r : Response) : (s.respond r).config = s.config := rfl
@[simp] theorem State.respond_script (s : State) (r : Response) : (s.respond r).script = s.script := rfl
@[simp] theorem State.respond_turns (s : State) (r : Response) : (s.respond r).turns = s.turns := rfl
@[simp] theorem State.respond_responses (s : State) (r : Response) : (s.respond r).responses = r :: s.responses := rfl
@[simp] theorem State.respond_draws (s : State) (r : Response) : (s.respond r).draws = s.draws := rfl

/-! ## State.countDraw: a free outcome drawn -/

@[simp] theorem State.countDraw_srcAddr (s : State) : (s.countDraw).srcAddr = s.srcAddr := rfl
@[simp] theorem State.countDraw_srcLen (s : State) : (s.countDraw).srcLen = s.srcLen := rfl
@[simp] theorem State.countDraw_dstAddr (s : State) : (s.countDraw).dstAddr = s.dstAddr := rfl
@[simp] theorem State.countDraw_dstCap (s : State) : (s.countDraw).dstCap = s.dstCap := rfl
@[simp] theorem State.countDraw_keyAddr (s : State) : (s.countDraw).keyAddr = s.keyAddr := rfl
@[simp] theorem State.countDraw_keyLen (s : State) : (s.countDraw).keyLen = s.keyLen := rfl
@[simp] theorem State.countDraw_busy (s : State) : (s.countDraw).busy = s.busy := rfl
@[simp] theorem State.countDraw_done (s : State) : (s.countDraw).done = s.done := rfl
@[simp] theorem State.countDraw_err (s : State) : (s.countDraw).err = s.err := rfl
@[simp] theorem State.countDraw_detail (s : State) : (s.countDraw).detail = s.detail := rfl
@[simp] theorem State.countDraw_resultLen (s : State) : (s.countDraw).resultLen = s.resultLen := rfl
@[simp] theorem State.countDraw_cur (s : State) : (s.countDraw).cur = s.cur := rfl
@[simp] theorem State.countDraw_mem (s : State) : (s.countDraw).mem = s.mem := rfl
@[simp] theorem State.countDraw_refused (s : State) : (s.countDraw).refused = s.refused := rfl
@[simp] theorem State.countDraw_fault (s : State) : (s.countDraw).fault = s.fault := rfl
@[simp] theorem State.countDraw_config (s : State) : (s.countDraw).config = s.config := rfl
@[simp] theorem State.countDraw_script (s : State) : (s.countDraw).script = s.script := rfl
@[simp] theorem State.countDraw_turns (s : State) : (s.countDraw).turns = s.turns := rfl
@[simp] theorem State.countDraw_responses (s : State) : (s.countDraw).responses = s.responses := rfl
@[simp] theorem State.countDraw_draws (s : State) : (s.countDraw).draws = s.draws + 1 := rfl

/-! ## State.popTurn: the turn taken -/

@[simp] theorem State.popTurn_srcAddr (s : State) : (s.popTurn).srcAddr = s.srcAddr := rfl
@[simp] theorem State.popTurn_srcLen (s : State) : (s.popTurn).srcLen = s.srcLen := rfl
@[simp] theorem State.popTurn_dstAddr (s : State) : (s.popTurn).dstAddr = s.dstAddr := rfl
@[simp] theorem State.popTurn_dstCap (s : State) : (s.popTurn).dstCap = s.dstCap := rfl
@[simp] theorem State.popTurn_keyAddr (s : State) : (s.popTurn).keyAddr = s.keyAddr := rfl
@[simp] theorem State.popTurn_keyLen (s : State) : (s.popTurn).keyLen = s.keyLen := rfl
@[simp] theorem State.popTurn_busy (s : State) : (s.popTurn).busy = s.busy := rfl
@[simp] theorem State.popTurn_done (s : State) : (s.popTurn).done = s.done := rfl
@[simp] theorem State.popTurn_err (s : State) : (s.popTurn).err = s.err := rfl
@[simp] theorem State.popTurn_detail (s : State) : (s.popTurn).detail = s.detail := rfl
@[simp] theorem State.popTurn_resultLen (s : State) : (s.popTurn).resultLen = s.resultLen := rfl
@[simp] theorem State.popTurn_cur (s : State) : (s.popTurn).cur = s.cur := rfl
@[simp] theorem State.popTurn_mem (s : State) : (s.popTurn).mem = s.mem := rfl
@[simp] theorem State.popTurn_refused (s : State) : (s.popTurn).refused = s.refused := rfl
@[simp] theorem State.popTurn_fault (s : State) : (s.popTurn).fault = s.fault := rfl
@[simp] theorem State.popTurn_config (s : State) : (s.popTurn).config = s.config := rfl
@[simp] theorem State.popTurn_script (s : State) : (s.popTurn).script = s.script := rfl
@[simp] theorem State.popTurn_turns (s : State) : (s.popTurn).turns = s.turns.tail := rfl
@[simp] theorem State.popTurn_responses (s : State) : (s.popTurn).responses = s.responses := rfl
@[simp] theorem State.popTurn_draws (s : State) : (s.popTurn).draws = s.draws := rfl

/-! ## State.commit: one of the two completions -/

@[simp] theorem State.commit_ok (s : State) (out : Bytes) : s.commit (.ok out) = s.commitOk out := rfl
@[simp] theorem State.commit_error (s : State) (d : Detail) : s.commit (.error d) = s.commitError d := rfl
@[simp] theorem State.commit_srcAddr (s : State) (r : TransformResult) : (s.commit r).srcAddr = s.srcAddr := by cases r <;> rfl
@[simp] theorem State.commit_srcLen (s : State) (r : TransformResult) : (s.commit r).srcLen = s.srcLen := by cases r <;> rfl
@[simp] theorem State.commit_dstAddr (s : State) (r : TransformResult) : (s.commit r).dstAddr = s.dstAddr := by cases r <;> rfl
@[simp] theorem State.commit_dstCap (s : State) (r : TransformResult) : (s.commit r).dstCap = s.dstCap := by cases r <;> rfl
@[simp] theorem State.commit_keyAddr (s : State) (r : TransformResult) : (s.commit r).keyAddr = s.keyAddr := by cases r <;> rfl
@[simp] theorem State.commit_keyLen (s : State) (r : TransformResult) : (s.commit r).keyLen = s.keyLen := by cases r <;> rfl
@[simp] theorem State.commit_refused (s : State) (r : TransformResult) : (s.commit r).refused = s.refused := by cases r <;> rfl
@[simp] theorem State.commit_fault (s : State) (r : TransformResult) : (s.commit r).fault = s.fault := by cases r <;> rfl
@[simp] theorem State.commit_config (s : State) (r : TransformResult) : (s.commit r).config = s.config := by cases r <;> rfl
@[simp] theorem State.commit_script (s : State) (r : TransformResult) : (s.commit r).script = s.script := by cases r <;> rfl
@[simp] theorem State.commit_turns (s : State) (r : TransformResult) : (s.commit r).turns = s.turns := by cases r <;> rfl
@[simp] theorem State.commit_responses (s : State) (r : TransformResult) : (s.commit r).responses = s.responses := by cases r <;> rfl
@[simp] theorem State.commit_draws (s : State) (r : TransformResult) : (s.commit r).draws = s.draws := by cases r <;> rfl
@[simp] theorem State.commit_busy (s : State) (r : TransformResult) : (s.commit r).busy = false := by cases r <;> rfl
@[simp] theorem State.commit_done (s : State) (r : TransformResult) : (s.commit r).done = true := by cases r <;> rfl
@[simp] theorem State.commit_cur (s : State) (r : TransformResult) : (s.commit r).cur = none := by cases r <;> rfl

/-! ## State.commitUndefined: the completion of an undefined fetch (R135) -/

@[simp] theorem State.commitUndefined_srcAddr (s : State) (a : Nat) : (s.commitUndefined a).srcAddr = s.srcAddr := by
  simp [State.commitUndefined]
@[simp] theorem State.commitUndefined_srcLen (s : State) (a : Nat) : (s.commitUndefined a).srcLen = s.srcLen := by
  simp [State.commitUndefined]
@[simp] theorem State.commitUndefined_dstAddr (s : State) (a : Nat) : (s.commitUndefined a).dstAddr = s.dstAddr := by
  simp [State.commitUndefined]
@[simp] theorem State.commitUndefined_dstCap (s : State) (a : Nat) : (s.commitUndefined a).dstCap = s.dstCap := by
  simp [State.commitUndefined]
@[simp] theorem State.commitUndefined_keyAddr (s : State) (a : Nat) : (s.commitUndefined a).keyAddr = s.keyAddr := by
  simp [State.commitUndefined]
@[simp] theorem State.commitUndefined_keyLen (s : State) (a : Nat) : (s.commitUndefined a).keyLen = s.keyLen := by
  simp [State.commitUndefined]
@[simp] theorem State.commitUndefined_refused (s : State) (a : Nat) : (s.commitUndefined a).refused = s.refused := by
  simp [State.commitUndefined]
@[simp] theorem State.commitUndefined_fault (s : State) (a : Nat) : (s.commitUndefined a).fault = s.fault.or (some (.undefinedRead a)) := by
  simp [State.commitUndefined]
@[simp] theorem State.commitUndefined_config (s : State) (a : Nat) : (s.commitUndefined a).config = s.config := by
  simp [State.commitUndefined]
@[simp] theorem State.commitUndefined_script (s : State) (a : Nat) : (s.commitUndefined a).script = s.script := by
  simp [State.commitUndefined]
@[simp] theorem State.commitUndefined_turns (s : State) (a : Nat) : (s.commitUndefined a).turns = s.turns := by
  simp [State.commitUndefined]
@[simp] theorem State.commitUndefined_responses (s : State) (a : Nat) : (s.commitUndefined a).responses = s.responses := by
  simp [State.commitUndefined]
@[simp] theorem State.commitUndefined_draws (s : State) (a : Nat) : (s.commitUndefined a).draws = s.draws + 1 := by
  simp [State.commitUndefined]
@[simp] theorem State.commitUndefined_busy (s : State) (a : Nat) : (s.commitUndefined a).busy = false := by
  simp [State.commitUndefined]
@[simp] theorem State.commitUndefined_done (s : State) (a : Nat) : (s.commitUndefined a).done = true := by
  simp [State.commitUndefined]
@[simp] theorem State.commitUndefined_cur (s : State) (a : Nat) : (s.commitUndefined a).cur = none := by
  simp [State.commitUndefined]

end Sys2Proof.Machine
end

