-- ==== Sys2Proof/Laws/Memory.lean ====
section
/-!
SUPPORT. The laws of buffer memory: what a read finds after a write or after cells become undefined, that both keep
the canonical form and the address bound, and what a fetch answers.
-/

namespace Sys2Proof.Machine

/-! ## Reading one cell -/

theorem byteAt_nil (a : Nat) : Memory.byteAt [] a = none := rfl

theorem byteAt_append (m n : Memory) (a : Nat) :
    Memory.byteAt (m ++ n) a = (Memory.byteAt m a).or (Memory.byteAt n a) :=
  List.lookup_append

theorem byteAt_cons (c : Host.Cell) (m : Memory) (a : Nat) :
    Memory.byteAt (c :: m) a = if a = c.1 then some c.2 else Memory.byteAt m a := by
  obtain ⟨k, b⟩ := c
  by_cases h : a = k
  · simp [Memory.byteAt, List.lookup, h]
  · have : (a == k) = false := by simpa using h
    simp [Memory.byteAt, List.lookup, h, this]

/-- Filtering by address keeps a cell that passes and removes one that does not. -/
theorem byteAt_filter (p : Nat → Bool) (m : Memory) (a : Nat) :
    Memory.byteAt (m.filter (fun c => p c.1)) a = if p a then Memory.byteAt m a else none := by
  induction m with
  | nil => simp [byteAt_nil]
  | cons c m ih =>
    rw [List.filter_cons]
    split <;> rename_i hp
    · rw [byteAt_cons, byteAt_cons, ih]
      by_cases h : a = c.1
      · subst h; simp [hp]
      · simp [h]
    · rw [ih, byteAt_cons]
      by_cases h : a = c.1
      · subst h; simp [hp]
      · simp [h]

/-- A cell holds a byte only if it is listed. -/
theorem mem_of_byteAt {m : Memory} {a : Nat} {b : Byte} (h : m.byteAt a = some b) : (a, b) ∈ m := by
  induction m with
  | nil => simp [byteAt_nil] at h
  | cons c m ih =>
    rw [byteAt_cons] at h
    split at h <;> rename_i hc
    · obtain ⟨k, v⟩ := c
      simp_all
    · exact List.mem_cons_of_mem _ (ih h)

/-! ## Writing -/

theorem byteAt_cellsFrom (a : Nat) (s : Bytes) (x : Nat) :
    Memory.byteAt (cellsFrom a s) x = if a ≤ x ∧ x < a + s.length then s[x - a]? else none := by
  induction s generalizing a with
  | nil =>
    have : ¬(a ≤ x ∧ x < a + 0) := by omega
    simp [cellsFrom, byteAt_nil]
  | cons b s ih =>
    rw [cellsFrom, byteAt_cons, ih]
    by_cases h : x = a
    · subst h; simp
    · by_cases h1 : a + 1 ≤ x ∧ x < a + 1 + s.length
      · have h2 : a ≤ x ∧ x < a + (b :: s).length := by simp only [List.length_cons]; omega
        have h3 : x - a = (x - (a + 1)) + 1 := by omega
        rw [if_neg h, if_pos h1, if_pos h2, h3, List.getElem?_cons_succ]
      · have h2 : ¬(a ≤ x ∧ x < a + (b :: s).length) := by simp only [List.length_cons]; omega
        simp only [h, h1, h2, if_false]

/-- A read after a write: the byte written inside the range, the old cell outside it (R13). -/
theorem byteAt_write (m : Memory) (a : Nat) (s : Bytes) (x : Nat) :
    (m.write a s).byteAt x = if a ≤ x ∧ x < a + s.length then s[x - a]? else m.byteAt x := by
  rw [Memory.write, byteAt_append, byteAt_append, byteAt_filter (fun k => decide (k < a)),
    byteAt_filter (fun k => decide (a + s.length ≤ k)), byteAt_cellsFrom]
  by_cases h1 : x < a
  · have h2 : ¬(a ≤ x ∧ x < a + s.length) := by omega
    have h3 : ¬(a + s.length ≤ x) := by omega
    simp [h1, h2, h3]
  · by_cases h2 : a + s.length ≤ x
    · have h3 : ¬(a ≤ x ∧ x < a + s.length) := by omega
      simp [h1, h2, h3]
    · have h3 : a ≤ x ∧ x < a + s.length := by omega
      simp [h1, h2, h3]

theorem byteAt_write_outside {m : Memory} {a : Nat} {s : Bytes} {x : Nat} (h : x < a ∨ a + s.length ≤ x) :
    (m.write a s).byteAt x = m.byteAt x := by
  rw [byteAt_write, if_neg (by omega)]

theorem byteAt_write_inside {m : Memory} {a : Nat} {s : Bytes} {k : Nat} (h : k < s.length) :
    (m.write a s).byteAt (a + k) = s[k]? := by
  rw [byteAt_write, if_pos (by omega), Nat.add_sub_cancel_left]

/-! ## Undefining -/

/-- A read after a region became undefined: nothing inside it, the old cell outside (R137, R343). -/
theorem byteAt_undefine (m : Memory) (a n x : Nat) :
    (m.undefine a n).byteAt x = if a ≤ x ∧ x < a + n then none else m.byteAt x := by
  rw [Memory.undefine, byteAt_filter (fun k => decide (k < a ∨ a + n ≤ k))]
  by_cases h : a ≤ x ∧ x < a + n
  · have : ¬(x < a ∨ a + n ≤ x) := by omega
    simp [h, this]
  · have : x < a ∨ a + n ≤ x := by omega
    simp [h, this]

/-! ## The canonical form and the address bound -/

theorem mem_cellsFrom {a : Nat} {s : Bytes} {c : Host.Cell} (h : c ∈ cellsFrom a s) :
    a ≤ c.1 ∧ c.1 < a + s.length := by
  induction s generalizing a with
  | nil => simp [cellsFrom] at h
  | cons b s ih =>
    simp only [cellsFrom, List.mem_cons] at h
    simp only [List.length_cons]
    obtain rfl | h := h
    · simp
    · have := ih h; omega

theorem cellsFrom_wf (a : Nat) (s : Bytes) : Memory.wf (cellsFrom a s) := by
  induction s generalizing a with
  | nil => exact List.Pairwise.nil
  | cons b s ih =>
    refine List.pairwise_cons.mpr ⟨fun c hc => ?_, ih (a + 1)⟩
    have := mem_cellsFrom hc
    exact Nat.lt_of_lt_of_le (Nat.lt_succ_self a) this.1

/-- A write keeps the canonical form. -/
theorem write_wf {m : Memory} (h : m.wf) (a : Nat) (s : Bytes) : (m.write a s).wf := by
  refine List.pairwise_append.mpr ⟨List.pairwise_append.mpr ⟨h.filter _, cellsFrom_wf a s, ?_⟩, h.filter _, ?_⟩
  · intro c hc d hd
    have hc := (List.mem_filter.mp hc).2
    have hd := mem_cellsFrom hd
    simp only [decide_eq_true_eq] at hc
    omega
  · intro c hc d hd
    have hd := (List.mem_filter.mp hd).2
    simp only [decide_eq_true_eq] at hd
    rcases List.mem_append.mp hc with hc | hc
    · have hc := (List.mem_filter.mp hc).2
      simp only [decide_eq_true_eq] at hc
      omega
    · have := mem_cellsFrom hc
      omega

/-- Cells becoming undefined keeps the canonical form. -/
theorem undefine_wf {m : Memory} (h : m.wf) (a n : Nat) : (m.undefine a n).wf := h.filter _

/-- Power-on memory has the canonical form. -/
theorem reset_mem_wf : State.reset.mem.wf := List.Pairwise.nil

theorem write_bounded {m : Memory} {a : Nat} {s : Bytes} {n : Nat} (h : ∀ c ∈ m, c.1 < n) (hs : a + s.length ≤ n) :
    ∀ c ∈ m.write a s, c.1 < n := by
  intro c hc
  rcases List.mem_append.mp hc with hc | hc
  · rcases List.mem_append.mp hc with hc | hc
    · exact h c (List.mem_filter.mp hc).1
    · have := mem_cellsFrom hc; omega
  · exact h c (List.mem_filter.mp hc).1

theorem undefine_bounded {m : Memory} {a k n : Nat} (h : ∀ c ∈ m, c.1 < n) : ∀ c ∈ m.undefine a k, c.1 < n :=
  fun c hc => h c (List.mem_filter.mp hc).1

/-! ## Fetching a range -/

/-- A fetch that answers bytes answers the byte of every cell of the range, in order. -/
theorem read_ok {m : Memory} {a n : Nat} {s : Bytes} (h : m.read a n = .ok s) :
    s.length = n ∧ ∀ k, k < n → m.byteAt (a + k) = s[k]? := by
  induction n generalizing a s with
  | zero =>
    simp only [Memory.read, Except.ok.injEq] at h
    subst h
    exact ⟨rfl, fun k hk => absurd hk (Nat.not_lt_zero k)⟩
  | succ n ih =>
    rw [Memory.read] at h
    split at h
    · cases h
    · rename_i b hb
      split at h
      · rename_i rest hr
        cases h
        obtain ⟨hl, hk⟩ := ih hr
        refine ⟨by simp [hl], fun k hlt => ?_⟩
        cases k with
        | zero => simpa using hb
        | succ k =>
          have := hk k (by omega)
          rw [show a + (k + 1) = a + 1 + k by omega, this]
          rfl
      · cases h

/-- A fetch that fails names the lowest undefined cell of the range (R135). -/
theorem read_error {m : Memory} {a n x : Nat} (h : m.read a n = .error x) :
    a ≤ x ∧ x < a + n ∧ m.byteAt x = none ∧ ∀ y, a ≤ y → y < x → m.byteAt y ≠ none := by
  induction n generalizing a with
  | zero => simp [Memory.read] at h
  | succ n ih =>
    rw [Memory.read] at h
    split at h
    · rename_i hb
      cases h
      exact ⟨le_refl _, by omega, hb, fun y h1 h2 => absurd h2 (by omega)⟩
    · rename_i b hb
      split at h
      · cases h
      · rename_i e hr
        cases h
        obtain ⟨h1, h2, h3, h4⟩ := ih hr
        refine ⟨by omega, by omega, h3, fun y hy1 hy2 => ?_⟩
        by_cases hy : y = a
        · subst hy; simp [hb]
        · exact h4 y (by omega) hy2

/-- A fetch of defined cells answers bytes. -/
theorem read_defined {m : Memory} {a n : Nat} (h : ∀ y, a ≤ y → y < a + n → m.byteAt y ≠ none) :
    ∃ s, m.read a n = .ok s := by
  cases hr : m.read a n with
  | ok s => exact ⟨s, rfl⟩
  | error x =>
    obtain ⟨h1, h2, h3, -⟩ := read_error hr
    exact absurd h3 (h x h1 h2)

/-- A fetch looks only at the cells of its range. -/
theorem read_congr {m m' : Memory} {a n : Nat} (h : ∀ y, a ≤ y → y < a + n → m'.byteAt y = m.byteAt y) :
    m'.read a n = m.read a n := by
  induction n generalizing a with
  | zero => rfl
  | succ n ih =>
    rw [Memory.read, Memory.read, h a (le_refl _) (by omega), ih (fun y h1 h2 => h y (by omega) (by omega))]

end Sys2Proof.Machine
end

