-- ==== Sys2Proof/Laws/Commands.lean ====
section
/-!
SUPPORT. What a command's course can do, once for all six: the checks, the fetch, the capacity check and the two
completions (40_command_cycle.md R133 to R137).
-/

namespace Sys2Proof.Machine

/-! ## The checks -/

/-- What holds of the regions when every check passes (R133). -/
theorem precheck_none {s : State} {keyed : Bool} (h : s.precheck keyed = none) :
    s.srcAddr.toNat + s.srcLen.toNat ≤ s.config.bufSize ∧
      s.dstAddr.toNat + s.dstCap.toNat ≤ s.config.bufSize ∧
      (keyed = true → s.keyAddr.toNat + s.keyLen.toNat ≤ s.config.bufSize) ∧
      s.srcRegion.overlaps s.dstRegion = false ∧
      (keyed = true → s.keyRegion.overlaps s.dstRegion = false) := by
  simp only [State.precheck] at h
  split at h
  · cases h
  rename_i h1
  split at h
  · cases h
  rename_i h2
  split at h
  · cases h
  rename_i h3
  split at h
  · cases h
  rename_i h4
  split at h
  · cases h
  rename_i h5
  simp only [Region.inRange, State.srcRegion, State.dstRegion, State.keyRegion, Bool.not_eq_true',
    Bool.not_eq_false, Nat.ble_eq, Bool.and_eq_true, not_and] at h1 h2 h3 h4 h5
  refine ⟨h1, h2, h3, ?_, fun hk => ?_⟩
  · simpa [State.srcRegion, State.dstRegion] using h4
  · simpa [State.keyRegion, State.dstRegion] using h5 hk

/-- Regions that do not overlap share no address (R74). -/
theorem not_overlaps_disjoint {r q : Region} (h : r.overlaps q = false) {a : Nat} (hr : r.base ≤ a ∧ a < r.base + r.len) :
    a < q.base ∨ q.base + q.len ≤ a := by
  by_contra hc
  have : r.overlaps q = true := by
    simp only [Region.overlaps, Bool.and_eq_true, decide_eq_true_eq]
    omega
  simp [h] at this

/-! ## The completions -/

/-- A successful completion, as the host sees it (R137, R138). -/
theorem commitOk_spec {s : State} {out : Bytes} (h : out.length ≤ s.dstCap.toNat) : CompletedOk s (s.commitOk out) out := by
  have hlt : out.length < 2 ^ 32 := Nat.lt_of_le_of_lt h s.dstCap.isLt
  refine ⟨⟨rfl, rfl, rfl, ⟨rfl, rfl, rfl, rfl, rfl, rfl⟩, ⟨rfl, rfl⟩, ⟨rfl, rfl, rfl, rfl, rfl⟩, fun a ha => ?_⟩, rfl, rfl, ?_,
    fun k hk => byteAt_write_inside hk, fun a ha => byteAt_write_outside ha⟩
  · exact byteAt_write_outside (by omega)
  · rw [State.commitOk_resultLen, BitVec.toNat_ofNat, Nat.mod_eq_of_lt hlt]

/-- An error completion, as the host sees it (R137, R304). -/
theorem commitError_spec (s : State) (d : Detail) : CompletedError s (s.commitError d) d := by
  refine ⟨⟨rfl, rfl, rfl, ⟨rfl, rfl, rfl, rfl, rfl, rfl⟩, ⟨rfl, rfl⟩, ⟨rfl, rfl, rfl, rfl, rfl⟩, fun a ha => ?_⟩, rfl, rfl, rfl,
    fun hk => ?_, fun hk a h1 h2 => ?_⟩
  · rw [State.commitError_mem, State.memAfterError]
    split
    · rfl
    · rw [byteAt_undefine, if_neg (by omega)]
  · rw [State.commitError_mem, State.memAfterError, hk]
  · rw [State.commitError_mem, State.memAfterError]
    split
    · rename_i hk'; exact absurd hk' hk
    · rw [byteAt_undefine, if_pos ⟨h1, h2⟩]

/-- The capacity check leaves only outputs that fit (R136). -/
theorem capacityCheck_ok {cap : Nat} {r : TransformResult} {out : Bytes} (h : capacityCheck cap r = .ok out) :
    r = .ok out ∧ out.length ≤ cap := by
  cases r with
  | ok o =>
    simp only [capacityCheck] at h
    split at h
    · cases h
    · cases h; exact ⟨rfl, by omega⟩
  | error d => cases h

/-- What a commit of any outcome of the capacity check is: an output that fits, or an error (R136, R137). -/
theorem commit_capacityCheck_cases (s : State) (cap : Nat) (r : TransformResult) :
    (∃ d, s.commit (capacityCheck cap r) = s.commitError d) ∨
      (∃ out, out.length ≤ cap ∧ s.commit (capacityCheck cap r) = s.commitOk out) := by
  cases hc : capacityCheck cap r with
  | ok out => exact .inr ⟨out, (capacityCheck_ok hc).2, rfl⟩
  | error d => exact .inl ⟨d, rfl⟩

/-- What the completion of an undefined fetch is: an error completion or an output that fits, with the fault recorded and
a draw counted (R135). -/
theorem commitUndefined_cases (s : State) (a : Nat) :
    (∃ d, s.commitUndefined a = ((s.markFault (.undefinedRead a)).countDraw).commitError d) ∨
      (∃ out, out.length ≤ s.dstCap.toNat ∧
        s.commitUndefined a = ((s.markFault (.undefinedRead a)).countDraw).commitOk out) :=
  commit_capacityCheck_cases _ _ _

/-! ## The fetch -/

/-- A keyed fetch that answers bytes is the two fetches (R135). -/
theorem fetchKeyed_ok {s : State} {src key8 : Bytes} (h : s.fetchKeyed = .ok (src, key8)) :
    s.fetchSrc = .ok src ∧ s.fetchKey = .ok key8 := by
  unfold State.fetchKeyed at h
  split at h
  · rename_i h1 h2
    cases h
    exact ⟨h1, h2⟩
  all_goals cases h

/-- A codec fetch that fails names the lowest undefined cell. -/
theorem fetchSrc_error {i : Instr} {s : State} {a : Nat} (hi : isKeyed i = false) (h : s.fetchSrc = .error a) :
    LowestUndefined i s a := by
  obtain ⟨h1, h2, h3, h4⟩ := read_error h
  refine ⟨.inl ⟨h1, h2⟩, h3, fun b hb hr => ?_⟩
  rcases hr with hr | hr
  · exact h4 b hr.1 hb
  · simp [hi] at hr

/-- A cipher fetch that fails names the lowest undefined cell of both regions. -/
theorem fetchKeyed_error {i : Instr} {s : State} {a : Nat} (hi : isKeyed i = true) (h : s.fetchKeyed = .error a) :
    LowestUndefined i s a := by
  unfold State.fetchKeyed at h
  split at h
  · cases h
  · rename_i src b hs hk
    cases h
    obtain ⟨h1, h2, h3, h4⟩ := read_error hk
    refine ⟨.inr ⟨hi, h1, h2⟩, h3, fun b hb hr => ?_⟩
    rcases hr with hr | hr
    · obtain ⟨-, hd⟩ := read_ok hs
      have := hd (b - s.srcAddr.toNat) (by have := (read_ok hs).1; omega)
      rw [show s.srcAddr.toNat + (b - s.srcAddr.toNat) = b by omega] at this
      rw [this]
      have hl := (read_ok hs).1
      rw [List.getElem?_eq_getElem (by omega)]
      exact Option.some_ne_none _
    · exact h4 b hr.2.1 hb
  · rename_i b key hs hk
    cases h
    obtain ⟨h1, h2, h3, h4⟩ := read_error hs
    refine ⟨.inl ⟨h1, h2⟩, h3, fun b hb hr => ?_⟩
    rcases hr with hr | hr
    · exact h4 b hr.1 hb
    · obtain ⟨hl, hd⟩ := read_ok hk
      have := hd (b - s.keyAddr.toNat) (by omega)
      rw [show s.keyAddr.toNat + (b - s.keyAddr.toNat) = b by omega] at this
      rw [this, List.getElem?_eq_getElem (by omega)]
      exact Option.some_ne_none _
  · rename_i x y hs hk
    cases h
    obtain ⟨h1, h2, h3, h4⟩ := read_error hs
    obtain ⟨k1, k2, k3, k4⟩ := read_error hk
    refine ⟨?_, ?_, fun b hb hr => ?_⟩
    · rcases Nat.le_total x y with hxy | hxy
      · rw [Nat.min_eq_left hxy]; exact .inl ⟨h1, h2⟩
      · rw [Nat.min_eq_right hxy]; exact .inr ⟨hi, k1, k2⟩
    · rcases Nat.le_total x y with hxy | hxy
      · rw [Nat.min_eq_left hxy]; exact h3
      · rw [Nat.min_eq_right hxy]; exact k3
    · rcases hr with hr | hr
      · exact h4 b hr.1 (by omega)
      · exact k4 b hr.2.1 (by omega)

/-! ## The course of a command -/

/-- Everything a codec command can do: report the first failing check, complete an undefined fetch, or complete with the
transform's outcome (R133 to R137). -/
theorem runCodec_cases (T : Bytes → TransformResult) (s : State) :
    (∃ d, s.precheck false = some d ∧ runCodec T s = .next (s.commitError d)) ∨
      (s.precheck false = none ∧ ∃ a, s.fetchSrc = .error a ∧ runCodec T s = .next (s.commitUndefined a)) ∨
      (s.precheck false = none ∧ ∃ src, s.fetchSrc = .ok src ∧
        runCodec T s = .next (s.commit (capacityCheck s.dstCap.toNat (T src)))) := by
  unfold runCodec
  cases hp : s.precheck false with
  | some d => exact .inl ⟨d, rfl, rfl⟩
  | none =>
    cases hf : s.fetchSrc with
    | error a => exact .inr (.inl ⟨rfl, a, rfl, rfl⟩)
    | ok src => exact .inr (.inr ⟨rfl, src, rfl, rfl⟩)

/-- Everything a cipher command can do, as `runCodec_cases`. -/
theorem runKeyed_cases (T : Bytes → Nat → Bytes → TransformResult) (s : State) :
    (∃ d, s.precheck true = some d ∧ runKeyed T s = .next (s.commitError d)) ∨
      (s.precheck true = none ∧ ∃ a, s.fetchKeyed = .error a ∧ runKeyed T s = .next (s.commitUndefined a)) ∨
      (s.precheck true = none ∧ ∃ src key8, s.fetchKeyed = .ok (src, key8) ∧
        runKeyed T s = .next (s.commit (capacityCheck s.dstCap.toNat (T src s.keyLen.toNat key8)))) := by
  unfold runKeyed
  cases hp : s.precheck true with
  | some d => exact .inl ⟨d, rfl, rfl⟩
  | none =>
    cases hf : s.fetchKeyed with
    | error a => exact .inr (.inl ⟨rfl, a, rfl, rfl⟩)
    | ok p => exact .inr (.inr ⟨rfl, p.1, p.2, rfl, rfl⟩)

/-- What any command does: it completes, with an error, with an output that fits where the checks passed, or with a free
outcome where its fetch meets an undefined cell. -/
theorem exec_cases (i : Instr) (s : State) :
    (∃ d, exec i s = .next (s.commitError d)) ∨
      (s.precheck (isKeyed i) = none ∧ ∃ out, out.length ≤ s.dstCap.toNat ∧ exec i s = .next (s.commitOk out)) ∨
      (s.precheck (isKeyed i) = none ∧ ∃ a, LowestUndefined i s a ∧ exec i s = .next (s.commitUndefined a)) := by
  have codec : ∀ T : Bytes → TransformResult, isKeyed i = false → exec i s = runCodec T s →
      (∃ d, exec i s = .next (s.commitError d)) ∨
        (s.precheck (isKeyed i) = none ∧ ∃ out, out.length ≤ s.dstCap.toNat ∧ exec i s = .next (s.commitOk out)) ∨
        (s.precheck (isKeyed i) = none ∧ ∃ a, LowestUndefined i s a ∧ exec i s = .next (s.commitUndefined a)) := by
    intro T hi he
    rw [he, hi]
    obtain ⟨d, -, h⟩ | ⟨hp, a, hf, h⟩ | ⟨hp, src, -, h⟩ := runCodec_cases T s
    · exact .inl ⟨d, h⟩
    · exact .inr (.inr ⟨hp, a, fetchSrc_error hi hf, h⟩)
    · obtain ⟨d, hd⟩ | ⟨out, hl, ho⟩ := commit_capacityCheck_cases s s.dstCap.toNat (T src)
      · exact .inl ⟨d, by rw [h, hd]⟩
      · exact .inr (.inl ⟨hp, out, hl, by rw [h, ho]⟩)
  have keyed : ∀ T : Bytes → Nat → Bytes → TransformResult, isKeyed i = true → exec i s = runKeyed T s →
      (∃ d, exec i s = .next (s.commitError d)) ∨
        (s.precheck (isKeyed i) = none ∧ ∃ out, out.length ≤ s.dstCap.toNat ∧ exec i s = .next (s.commitOk out)) ∨
        (s.precheck (isKeyed i) = none ∧ ∃ a, LowestUndefined i s a ∧ exec i s = .next (s.commitUndefined a)) := by
    intro T hi he
    rw [he, hi]
    obtain ⟨d, -, h⟩ | ⟨hp, a, hf, h⟩ | ⟨hp, src, key8, -, h⟩ := runKeyed_cases T s
    · exact .inl ⟨d, h⟩
    · exact .inr (.inr ⟨hp, a, fetchKeyed_error hi hf, h⟩)
    · obtain ⟨d, hd⟩ | ⟨out, hl, ho⟩ := commit_capacityCheck_cases s s.dstCap.toNat (T src s.keyLen.toNat key8)
      · exact .inl ⟨d, by rw [h, hd]⟩
      · exact .inr (.inl ⟨hp, out, hl, by rw [h, ho]⟩)
  cases i
  · exact keyed (feiEncrypt s.config) rfl rfl
  · exact keyed (feiDecrypt s.config) rfl rfl
  · exact codec lzwCompress rfl rfl
  · exact codec lzwDecompress rfl rfl
  · exact codec huffCompress rfl rfl
  · exact codec huffDecompress rfl rfl

/-- Every command completes (R140): `exec` answers a next state, idle and done. -/
theorem exec_completes (i : Instr) (s : State) :
    ∃ t, exec i s = .next t ∧ t.busy = false ∧ t.done = true ∧ t.cur = none := by
  obtain ⟨d, h⟩ | ⟨-, out, -, h⟩ | ⟨-, a, -, h⟩ := exec_cases i s
  · exact ⟨_, h, rfl, rfl, rfl⟩
  · exact ⟨_, h, rfl, rfl, rfl⟩
  · exact ⟨_, h, by simp, by simp, by simp⟩

/-! ## Error codes -/

/-- Every cause is in the table of R301. -/
theorem mem_allDetails (d : Detail) : d ∈ allDetails := by cases d <;> decide

end Sys2Proof.Machine
end

