-- ==== Sys2Proof/Laws/Cycle.lean ====
section
/-!
SUPPORT. What a host operation and a step can do, once each.
-/

namespace Sys2Proof.Machine

/-! ## The host's operations -/

/-- Everything a register write can do: mark a refused access, nothing at all, or while idle the write of the register
at the offset (R31 to R38). -/
theorem hostRegWrite_cases (s : State) (size off : Nat) (w : Word) :
    s.hostRegWrite size off w = s.markRefused ∨ s.hostRegWrite size off w = s ∨
      (s.busy = false ∧ ∃ r, regAt off = some r ∧ s.hostRegWrite size off w = s.writeReg w r) := by
  unfold State.hostRegWrite
  split
  · split
    · exact .inr (.inl rfl)
    · rename_i hb
      split
      · rename_i r hr
        exact .inr (.inr ⟨by simpa using hb, r, hr, rfl⟩)
      · exact .inr (.inl rfl)
  · exact .inl rfl

/-- Everything a register read can do: return a word, or mark a refused access (R37, R77). -/
theorem hostRegRead_cases (s : State) (size off : Nat) :
    s.hostRegRead size off = s.markRefused ∨
      s.hostRegRead size off = s.respond (.word off (s.regValue off)) := by
  unfold State.hostRegRead
  split
  · exact .inr rfl
  · exact .inl rfl

/-- Everything a buffer read can do: mark a refused access, mark a fault, or return the byte (R40, R70, R71). -/
theorem hostBufRead_cases (s : State) (a : Nat) :
    s.hostBufRead a = s.markRefused ∨ (∃ f, s.hostBufRead a = s.markFault f) ∨
      (∃ b, s.mem.byteAt a = some b ∧ s.hostBufRead a = s.respond (.byte a b)) := by
  unfold State.hostBufRead
  split
  · exact .inl rfl
  · split
    · exact .inr (.inl ⟨_, rfl⟩)
    · split
      · rename_i b hb
        exact .inr (.inr ⟨b, hb, rfl⟩)
      · exact .inr (.inl ⟨_, rfl⟩)

/-- Everything a buffer write can do: mark a refused access, mark a fault, or while idle write the byte of an address
inside buffer memory (R40, R70, R71). -/
theorem hostBufWrite_cases (s : State) (a : Nat) (b : Byte) :
    s.hostBufWrite a b = s.markRefused ∨ (∃ f, s.hostBufWrite a b = s.markFault f) ∨
      (a < s.config.bufSize ∧ s.busy = false ∧ s.hostBufWrite a b = { s with mem := s.mem.write a [b] }) := by
  unfold State.hostBufWrite
  split
  · exact .inl rfl
  · rename_i ha
    split
    · exact .inr (.inl ⟨_, rfl⟩)
    · rename_i hb
      exact .inr (.inr ⟨by omega, by simpa using hb, rfl⟩)

/-- One round of `wait` reads STATUS and keeps the poll in the script while BUSY = 1 (R108). -/
theorem hostWait_eq (s : State) :
    s.hostWait = { s with
      responses := .word 4 (statusWord s) :: s.responses
      script := if s.busy then .wait :: s.script else s.script } := by
  have hr : s.hostRegRead 4 (offsetOf .status) = s.respond (.word 4 (statusWord s)) := by
    simp [State.hostRegRead, regAccessOk, offsetOf, State.regValue, regAt, State.readReg]
  unfold State.hostWait
  rw [hr]
  by_cases hb : s.busy = true
  · rw [if_pos hb, if_pos hb]; rfl
  · rw [if_neg hb, if_neg hb]; rfl

/-! ## One step -/

/-- Everything a step that answers a next state can be: a refused step, the host's turn, an idle engine's turn, an illegal
word's completion or a command's completion. -/
theorem step_next {s t : State} (h : step s = .next t) :
    (s.config.wf = false ∧ t = s.popTurn.markRefused) ∨
    (s.config.wf = true ∧
      ((s.nextAgent = .host ∧ t = s.popTurn.hostTurn) ∨
        (s.nextAgent = .engine ∧ s.busy = false ∧ t = s.popTurn) ∨
        (s.nextAgent = .engine ∧ s.busy = true ∧ ∃ w, s.cur = some w ∧
          ((∃ e, decode w = .error e ∧ t = s.popTurn.commitError (illegalWordDetail e)) ∨
            (∃ i, decode w = .ok i ∧ exec i s.popTurn = .next t))))) := by
  unfold step at h
  split at h
  case isFalse hw => cases h; exact .inl ⟨by simpa using hw, rfl⟩
  case isTrue hw =>
    refine .inr ⟨hw, ?_⟩
    split at h
    · rename_i ha
      cases h
      exact .inl ⟨ha, rfl⟩
    · rename_i ha
      refine .inr ?_
      unfold engineTurn at h
      split at h
      · rename_i hb
        split at h
        · rename_i w hc
          refine .inr ⟨ha, by simpa using hb, w, by simpa using hc, ?_⟩
          unfold completeWord at h
          split at h
          · rename_i i hd
            exact .inr ⟨i, hd, h⟩
          · rename_i e hd
            cases h
            exact .inl ⟨e, hd, rfl⟩
        · cases h
      · rename_i hb
        cases h
        exact .inl ⟨ha, by simpa using hb, rfl⟩

end Sys2Proof.Machine
end

