-- ==== Sys2Proof/Laws/Formats.lean ====
section
/-!
SUPPORT. Lengths and values of the byte formats: big-endian sequences, bit strings, packed codes, padding.
-/

namespace Sys2Proof.Machine

@[simp] theorem toBe_length (n v : Nat) : (toBe n v).length = n := by
  induction n with
  | zero => rfl
  | succ n ih => simp [toBe, ih]

/-- `be` is below `256 ^ len` (R12). -/
theorem be_lt (s : Bytes) : be s < 256 ^ s.length := by
  induction s with
  | nil => simp [be]
  | cons b s ih =>
    have hb : b.toNat < 256 := b.isLt
    simp only [be, List.length_cons, Nat.pow_succ]
    nlinarith [Nat.pow_pos (n := s.length) (show 0 < 256 by norm_num)]

/-- `be(to_be(v)) = v`, taken to the width (R12). -/
theorem be_toBe (n v : Nat) : be (toBe n v) = v % 256 ^ n := by
  induction n with
  | zero => simp [toBe, be, Nat.mod_one]
  | succ n ih =>
    simp only [toBe, be, toBe_length, ih, BitVec.toNat_ofNat]
    have h8 : (2 : Nat) ^ 8 = 256 := rfl
    rw [h8, Nat.pow_succ, Nat.mod_mul, Nat.mul_comm (v / 256 ^ n % 256), Nat.add_comm]

/-- `to_be(be(s)) = s` (R12). -/
theorem toBe_be (s : Bytes) : toBe s.length (be s) = s := by
  have key : ∀ (n v k : Nat), toBe n (v + k * 256 ^ n) = toBe n v := by
    intro n
    induction n with
    | zero => intros; rfl
    | succ n ih =>
      intro v k
      have h1 : v + k * 256 ^ (n + 1) = v + (k * 256) * 256 ^ n := by rw [Nat.pow_succ]; ring
      have h2 : (v + (k * 256) * 256 ^ n) / 256 ^ n = v / 256 ^ n + k * 256 :=
        Nat.add_mul_div_right _ _ (Nat.pow_pos (by norm_num))
      simp only [toBe, h1, h2, ih]
      congr 1
      apply BitVec.eq_of_toNat_eq
      simp [BitVec.toNat_ofNat, Nat.add_mul_mod_self_right]
  induction s with
  | nil => rfl
  | cons b s ih =>
    have hlt := be_lt s
    have hd : (b.toNat * 256 ^ s.length + be s) / 256 ^ s.length = b.toNat := by
      rw [Nat.mul_comm, Nat.mul_add_div (Nat.pow_pos (by norm_num)), Nat.div_eq_of_lt hlt, Nat.add_zero]
    simp only [List.length_cons, toBe, be, hd]
    congr 1
    · simp
    · rw [Nat.add_comm, key, ih]

@[simp] theorem bitsOfByte_length (b : Byte) : (bitsOfByte b).length = 8 := by simp [bitsOfByte]

theorem bitsOfBytes_length (s : Bytes) : (bitsOfBytes s).length = 8 * s.length := by
  induction s with
  | nil => rfl
  | cons b s ih =>
    simp only [bitsOfBytes, List.flatMap_cons, List.length_append, bitsOfByte_length, List.length_cons] at *
    omega

/-- A padded bit string fills whole bytes (R206). -/
theorem padToByte_length (bits : List Bool) : (padToByte bits).length = 8 * ((bits.length + 7) / 8) := by
  simp only [padToByte, List.length_append, List.length_replicate]
  omega

@[simp] theorem bytesOfBits_length (bits : List Bool) : (bytesOfBits bits).length = bits.length / 8 := by
  simp [bytesOfBits]

/-- The padded plaintext is a positive number of whole blocks, longer than the plaintext (R270). -/
theorem padBlock_length (x : Bytes) : (padBlock x).length = 8 * (x.length / 8 + 1) := by
  simp only [padBlock, List.length_append, List.length_replicate]
  omega

/-- ECB keeps the length of whole blocks (R260). -/
theorem ecb_length (c : Config) (m : Bytes) (ks : List (BitVec 48)) : (ecb c m ks).length = 8 * (m.length / 8) := by
  simp [ecb, List.length_flatMap, Nat.mul_comm]

/-- The Huffman header is 1284 bytes long (R200). -/
theorem huffHeader_length (src : Bytes) (table : List (Byte × List Bool)) : (huffHeader src table).length = 1284 := by
  have hf : ((frequencies src).flatMap (toBe 4)).length = 4 * (frequencies src).length := by
    induction frequencies src with
    | nil => rfl
    | cons f fs ih => simp only [List.flatMap_cons, List.length_append, toBe_length, ih, List.length_cons]; omega
  simp only [huffHeader, List.length_append, toBe_length, List.length_map, List.length_range, hf]
  simp [frequencies]

/-- The dictionary never holds more than 4096 entries (R162). -/
theorem dictAdd_length_le {d : Dict} (h : d.length ≤ 4096) (s : Bytes) : (dictAdd d s).length ≤ 4096 := by
  unfold dictAdd
  split
  · simp only [List.length_append, List.length_singleton]; omega
  · exact h

end Sys2Proof.Machine
end

