-- ==== Sys2Proof/Laws/PerInstr.lean ====
section
/-!
SUPPORT. Statements made once for every constructor of Instr. Family Encoding: a command is well formed and its word has
the CMD32 form, with the reserved bits zero and an opcode in 0x01 to 0x06 (30_encoding.md R100, R101).
-/

/-- The command is well formed and its word has the CMD32 form (R100, R101). -/
def Sys2Proof.Laws.Encoding.Statement (i : Sys2Proof.Instr) : Prop :=
  i.wf = true ∧ Sys2Proof.rsvdField (Sys2Proof.encode i) = 0#24 ∧
    1 ≤ (Sys2Proof.opField (Sys2Proof.encode i)).toNat ∧ (Sys2Proof.opField (Sys2Proof.encode i)).toNat ≤ 6

theorem Sys2Proof.Laws.Encoding.feiEnc : Sys2Proof.Laws.Encoding.Statement .feiEnc := by
  unfold Sys2Proof.Laws.Encoding.Statement; decide

theorem Sys2Proof.Laws.Encoding.feiDec : Sys2Proof.Laws.Encoding.Statement .feiDec := by
  unfold Sys2Proof.Laws.Encoding.Statement; decide

theorem Sys2Proof.Laws.Encoding.lzwComp : Sys2Proof.Laws.Encoding.Statement .lzwComp := by
  unfold Sys2Proof.Laws.Encoding.Statement; decide

theorem Sys2Proof.Laws.Encoding.lzwDecomp : Sys2Proof.Laws.Encoding.Statement .lzwDecomp := by
  unfold Sys2Proof.Laws.Encoding.Statement; decide

theorem Sys2Proof.Laws.Encoding.huffComp : Sys2Proof.Laws.Encoding.Statement .huffComp := by
  unfold Sys2Proof.Laws.Encoding.Statement; decide

theorem Sys2Proof.Laws.Encoding.huffDecomp : Sys2Proof.Laws.Encoding.Statement .huffDecomp := by
  unfold Sys2Proof.Laws.Encoding.Statement; decide
end

