-- ==== Sys2Proof/Tests/Slice0.lean ====
section
/-!
SUPPORT. Tests of the model against the spec's own examples (95_test_vectors.md and the encodings of 30_encoding.md), the
well-formedness smoke tests, and a witness for the hypotheses of each statement.
-/

set_option Elab.async false

namespace Sys2Proof.Tests

open Sys2Proof Sys2Proof.Machine

/-! ## Helpers -/

/-- The next state of an outcome, if it is one. -/
def nextOf (o : Host.Outcome State Fault Refusal) : Option State :=
  match o with
  | .next t => some t
  | .fault _ => none
  | .refused _ => none

/-- The fault of an outcome, if it is one. -/
def faultOf (o : Host.Outcome State Fault Refusal) : Option Fault :=
  match o with
  | .next _ => none
  | .fault f => some f
  | .refused _ => none

/-- The refusal of an outcome, if it is one. -/
def refusalOf (o : Host.Outcome State Fault Refusal) : Option Refusal :=
  match o with
  | .next _ => none
  | .fault _ => none
  | .refused r => some r

/-- STATUS, RESULT_LEN and the defined cells after an outcome. -/
def view (o : Host.Outcome State Fault Refusal) : Option (Word × Word × Memory) :=
  (nextOf o).map (fun t => (statusWord t, t.resultLen, t.mem))

/-- A power-on state with the SRC bytes at 0, the KEY bytes at 0x800 and the DST region `(0x1000, cap)`. -/
def small (src key : Bytes) (cap : Nat) : State :=
  { State.reset with
    srcLen := BitVec.ofNat 32 src.length
    dstAddr := 0x1000#32
    dstCap := BitVec.ofNat 32 cap
    keyAddr := 0x800#32
    keyLen := BitVec.ofNat 32 key.length
    mem := cellsFrom 0 src ++ cellsFrom 0x800 key }

/-- The key `01 23 45 67 89 AB CD EF` of 95_test_vectors.md. -/
def key0 : Bytes := [0x01, 0x23, 0x45, 0x67, 0x89, 0xAB, 0xCD, 0xEF]

/-- "A". -/
def textA : Bytes := [0x41]

/-- "AB". -/
def textAB : Bytes := [0x41, 0x42]

/-! ## Decoding: each word written out from 30_encoding.md R100 and R101 -/

theorem test_decode_feiEnc : decode 0b00000000000000000000000000000001#32 = .ok .feiEnc := rfl
theorem test_decode_feiDec : decode 0b00000000000000000000000000000010#32 = .ok .feiDec := rfl
theorem test_decode_lzwComp : decode 0b00000000000000000000000000000011#32 = .ok .lzwComp := rfl
theorem test_decode_lzwDecomp : decode 0b00000000000000000000000000000100#32 = .ok .lzwDecomp := rfl
theorem test_decode_huffComp : decode 0b00000000000000000000000000000101#32 = .ok .huffComp := rfl
theorem test_decode_huffDecomp : decode 0b00000000000000000000000000000110#32 = .ok .huffDecomp := rfl

/-- V-CMD-1, V-CMD-2, V-CMD-4: an unknown opcode, reserved bits or not. -/
theorem test_decode_unknown :
    decode 0x00000000#32 = .error .unknownOpcode ∧ decode 0x00000007#32 = .error .unknownOpcode ∧
      decode 0xFFFFFF07#32 = .error .unknownOpcode := ⟨rfl, rfl, rfl⟩

/-- V-CMD-3: a valid opcode with reserved bits set. -/
theorem test_decode_reserved : decode 0x00000101#32 = .error .reservedBits := rfl

theorem test_decodeTableWord :
    [1, 2, 3, 4, 5, 6, 7].map (decodeTableWord 32) =
      [some .feiEnc, some .feiDec, some .lzwComp, some .lzwDecomp, some .huffComp, some .huffDecomp, none] := by
  decide

/-! ## Well-formedness: one ill-formed term for each check of R9 and R261 -/

theorem test_wf_default : defaultConfig.wf = true := by decide +kernel
theorem test_wf_bufSize_zero : { defaultConfig with bufSize := 0 }.wf = false := by decide +kernel
theorem test_wf_bufSize_big : { defaultConfig with bufSize := 2 ^ 32 + 1 }.wf = false := by decide +kernel
theorem test_wf_ip_repeats : { defaultConfig with ip := List.replicate 64 1 }.wf = false := by decide +kernel
theorem test_wf_ip_short : { defaultConfig with ip := [1] }.wf = false := by decide +kernel
theorem test_wf_pc1_zero : { defaultConfig with pc1 := List.range 56 }.wf = false := by decide +kernel
theorem test_wf_pc2_range : { defaultConfig with pc2 := List.range' 10 48 }.wf = false := by decide +kernel
theorem test_wf_expansion_range : { defaultConfig with expansion := List.replicate 48 33 }.wf = false := by decide +kernel
theorem test_wf_pout_short : { defaultConfig with pout := List.replicate 31 1 }.wf = false := by decide +kernel
theorem test_wf_sboxes_seven : { defaultConfig with sboxes := defaultConfig.sboxes.drop 1 }.wf = false := by decide +kernel
theorem test_wf_sbox_entry :
    { defaultConfig with sboxes := List.replicate 8 (List.replicate 4 (List.replicate 16 16)) }.wf = false := by decide +kernel

/-- R257's own listing of FEI_FP begins `40 8 48 16 56 24 64 32` (R262). -/
theorem test_inverseTable : (inverseTable defaultConfig.ip).take 8 = [40, 8, 48, 16, 56, 24, 64, 32] := by decide +kernel

/-! ## The commands, on the vectors of 95_test_vectors.md -/

/-- V-FEI-1: the first subkey and the first round function value. -/
theorem test_feistel_round :
    (keySchedule defaultConfig 0x133457799BBCDFF1#64).head? = some 0x1B02EFFC7072#48 ∧
      feistelF defaultConfig 0xF0AAF0AA#32 0x1B02EFFC7072#48 = 0x234AA9BB#32 := by decide +kernel

/-- V-FEI-7: FEI_ENC of the empty plaintext. -/
theorem test_feiEnc_empty :
    view (exec .feiEnc (small [] key0 8)) = some (0x00000002#32, 8#32,
      cellsFrom 0x800 key0 ++ cellsFrom 0x1000 [0x08, 0x6F, 0x9A, 0x1D, 0x74, 0xC9, 0x4D, 0x4E]) := by decide +kernel

/-- V-FEI-14: a key of seven bytes is too short, and DST keeps its bytes. -/
theorem test_feiEnc_key_too_short :
    view (exec .feiEnc (small textA (key0.take 7) 8)) =
      some (0x00000812#32, 0#32, cellsFrom 0 textA ++ cellsFrom 0x800 (key0.take 7)) := by decide +kernel

/-- V-FEI-12: FEI_DEC of `E3 D5 1E 89 46 8C 2A 3E` gives seven bytes. -/
theorem test_feiDec_seven_bytes :
    (view (exec .feiDec (small [0xE3, 0xD5, 0x1E, 0x89, 0x46, 0x8C, 0x2A, 0x3E] key0 7))).map
        (fun v => (v.1, v.2.1, v.2.2.read 0x1000 7 |>.toOption)) =
      some (0x00000002#32, 7#32, some [0x41, 0x42, 0x43, 0x44, 0x45, 0x46, 0x01]) := by decide +kernel

/-- V-FEI-15: a pad byte that differs from the pad length. -/
theorem test_feiDec_pad_mismatch :
    (view (exec .feiDec (small [0x47, 0x36, 0x85, 0x1E, 0xE0, 0x42, 0xB9, 0xCD] key0 8))).map (fun v => (v.1, v.2.1)) =
      some (0x00004132#32, 0#32) := by decide +kernel

/-- V-LZW-7: LZW_COMP of "ABABABA". -/
theorem test_lzwComp_ababa :
    (view (exec .lzwComp (small [0x41, 0x42, 0x41, 0x42, 0x41, 0x42, 0x41] [] 6))).map
        (fun v => (v.1, v.2.1, v.2.2.read 0x1000 6 |>.toOption)) =
      some (0x00000002#32, 6#32, some [0x04, 0x10, 0x42, 0x10, 0x01, 0x02]) := by decide +kernel

/-- V-CMD-14: the three-byte result does not fit two bytes. -/
theorem test_lzwComp_too_small :
    view (exec .lzwComp (small textAB [] 2)) = some (0x00005052#32, 0#32, cellsFrom 0 textAB) := by decide +kernel

/-- V-LZW-10b: the special case at the second code, and a trailing byte ignored. -/
theorem test_lzwDecomp_special_case :
    (view (exec .lzwDecomp (small [0x04, 0x11, 0x00, 0x1F] [] 4))).map
        (fun v => (v.1, v.2.1, v.2.2.read 0x1000 3 |>.toOption)) =
      some (0x00000002#32, 3#32, some [0x41, 0x41, 0x41]) := by decide +kernel

/-- V-LZW-11a: a first code of 256. -/
theorem test_lzwDecomp_bad_first_code :
    (view (exec .lzwDecomp (small [0x10, 0x00, 0x41] [] 4))).map (fun v => v.1) = some 0x00002022#32 := by decide +kernel

/-- V-HUF-3: the codewords of "ABCD" under the heap of R203 (90_conflicts.md C3). -/
theorem test_huff_codewords :
    codeTable (buildTree (frequencies [0x41, 0x42, 0x43, 0x44])) =
      [(0x41, [false, false]), (0x44, [false, true]), (0x43, [true, false]), (0x42, [true, true])] := by decide +kernel

/-- V-HUF-1, V-CMD-17: the empty input gives 1284 bytes, which 1283 do not hold. -/
theorem test_huffComp_empty :
    ((view (exec .huffComp (small [] [] 1284))).map (fun v => (v.1, v.2.1)) = some (0x00000002#32, 1284#32)) ∧
      ((view (exec .huffComp (small [] [] 1283))).map (fun v => v.1) = some 0x00005052#32) := by decide +kernel

/-- The output of a successful transform. -/
def outputOf (r : TransformResult) : Bytes :=
  match r with
  | .ok out => out
  | .error _ => []

/-- V-HUF-6: the body of the artifact of "AAB" is the byte `C0`. -/
theorem test_huffComp_aab : (outputOf (huffCompress [0x41, 0x41, 0x42])).drop 1284 = [0xC0] := by decide +kernel

/-- V-HUF-9: a truncated header. -/
theorem test_huffDecomp_truncated :
    (view (exec .huffDecomp (small textAB [] 4))).map (fun v => v.1) = some 0x00003022#32 := by decide +kernel

/-! ## The command cycle and the ports -/

/-- A word of the opcode table is the first instruction after power-on. -/
theorem test_first_step_runs_the_word :
    [1, 2, 3, 4, 5, 6].map (fun w => (view (step (State.reset.withFetchWord 32 w))).map (fun v => v.1)) =
      [some 0x00000812#32, some 0x00000812#32, some 0x00000002#32, some 0x00000002#32, some 0x00005052#32,
        some 0x00003022#32] := by decide +kernel

/-- V-CMD-7: no 32-bit wrap in a range. -/
theorem test_dst_range_no_wrap :
    (view (exec .huffComp { State.reset with dstAddr := 0xFFFFFFFF#32, dstCap := 2#32 })).map (fun v => v.1) =
      some 0x00000412#32 := by decide +kernel

/-- V-CMD-18: writes while BUSY = 1 are ignored. -/
theorem test_busy_writes_ignored :
    ((State.reset.start 3#32).hostOp (.regWrite 4 0x000 0#32)) = State.reset.start 3#32 ∧
      ((State.reset.start 3#32).hostOp (.regWrite 4 0x00C 5#32)) = State.reset.start 3#32 := by decide +kernel

/-- 95_test_vectors.md P4: a read of an undefined cell marks the run. -/
theorem test_undefined_bufRead :
    (State.reset.hostOp (.bufRead 0x803)).fault = some (.undefinedRead 0x803) := by decide +kernel

/-- R135, R310: a fetch of undefined cells records the fault of the lowest, and a reset afterwards keeps the mark (R344). -/
theorem test_undefined_fetch :
    let s := { small textA [] 2 with srcLen := 3#32 }
    exec .lzwComp s = .next (s.commitUndefined 1) ∧ (s.commitUndefined 1).fault = some (.undefinedRead 1) ∧
      (s.commitUndefined 1).applyReset.fault = some (.undefinedRead 1) := by
  refine ⟨rfl, ?_, ?_⟩ <;> simp <;> rfl

/-- R310: a step under an illegal configuration records the refusal and changes no register. -/
theorem test_illegal_configuration_marks :
    step { State.reset with config := { defaultConfig with bufSize := 0 } } =
      .next { State.reset with config := { defaultConfig with bufSize := 0 }, refused := true } := rfl

/-- R203 and R204: equal weights do not move, and the first node extracted is the left child. -/
theorem test_heap_ties :
    (heapExtract [.leaf 1 2, .leaf 2 5, .leaf 3 5, .leaf 4 6]).map (fun p => p.2) =
      some [.leaf 2 5, .leaf 4 6, .leaf 3 5] := by decide +kernel

/-- R107: the expansion of two script lines. -/
theorem test_script_expansion :
    expandScript [.bw 0x100 [0x01, 0x23], .run (encode .feiEnc)] =
      [.bufWrite 0x100 0x01, .bufWrite 0x101 0x23, .regWrite 4 0x000 0x00000001#32, .wait] := by decide +kernel

/-! ## Witnesses: states and operands that meet the hypotheses of each statement, clause by clause -/

theorem exists_next {o : Host.Outcome State Fault Refusal} (p : State → Bool) (h : (nextOf o).map p = some true) :
    ∃ t, o = .next t ∧ p t = true := by
  cases o with
  | next t => exact ⟨t, rfl, by simpa [nextOf] using h⟩
  | fault f => simp [nextOf] at h
  | refused r => simp [nextOf] at h

theorem small_src_holds (src key : Bytes) (cap : Nat) (h : src.length ≤ 0x800) : SrcHolds (small src key cap) src := by
  have hl : (small src key cap).srcLen.toNat = src.length := by
    simp only [small, BitVec.toNat_ofNat]
    exact Nat.mod_eq_of_lt (by omega)
  refine ⟨hl.symm, fun k hk => ?_⟩
  have ha : (small src key cap).srcAddr.toNat = 0 := rfl
  rw [ha, Nat.zero_add]
  show Memory.byteAt (cellsFrom 0 src ++ cellsFrom 0x800 key) k = src[k]?
  rw [byteAt_append, byteAt_cellsFrom, if_pos ⟨Nat.zero_le k, by omega⟩, Nat.sub_zero, List.getElem?_eq_getElem hk]
  rfl

theorem small_key_holds (src key : Bytes) (cap : Nat) (h : src.length ≤ 0x800) (hk : key.length ≤ 8) :
    KeyHolds (small src key cap) key := by
  have hl : (small src key cap).keyLen.toNat = key.length := by
    simp only [small, BitVec.toNat_ofNat]
    exact Nat.mod_eq_of_lt (by omega)
  refine ⟨by rw [hl]; omega, fun k hlt => ?_⟩
  have ha : (small src key cap).keyAddr.toNat = 0x800 := rfl
  rw [ha]
  show Memory.byteAt (cellsFrom 0 src ++ cellsFrom 0x800 key) (0x800 + k) = key[k]?
  have hn : ¬(0 ≤ 0x800 + k ∧ 0x800 + k < 0 + src.length) := by omega
  rw [byteAt_append, byteAt_cellsFrom, if_neg hn, byteAt_cellsFrom, if_pos ⟨by omega, by omega⟩,
    Nat.add_sub_cancel_left]
  rfl

/-- An artifact of 42_huffman.md R200 with an all-zero code_len table. -/
def artifact (olen : Nat) (freq : Nat → Nat) (body : Bytes) : Bytes :=
  toBe 4 olen ++ List.replicate 256 0 ++ (List.range 256).flatMap (fun b => toBe 4 (freq b)) ++ body

/-- Hand a byte sequence on as a list of its elements, so that the kernel computes it once. -/
def evaluated : Bytes → (Bytes → Bool) → Bool
  | [], k => k []
  | b :: s, k => evaluated s (fun r => k (b :: r))

theorem evaluated_eq (s : Bytes) (k : Bytes → Bool) : evaluated s k = k s := by
  induction s generalizing k with
  | nil => rfl
  | cons b s ih => exact ih _

theorem huffDecompress_of_evaluated {src : Bytes} {r : TransformResult}
    (h : evaluated src (fun s => decide (huffDecompress s = r)) = true) : huffDecompress src = r := by
  rw [evaluated_eq] at h
  exact of_decide_eq_true h

/-- An idle power-on state and the same state with LZW_COMP in progress. -/
def idle : State := State.reset
def busyState : State := State.reset.start 3#32

theorem witness_decode : Instr.wf .huffDecomp = true ∧ decode (encode .huffDecomp) = .ok .huffDecomp := ⟨rfl, rfl⟩

theorem witness_step_runs :
    let s := State.reset.withFetchWord 32 6
    s.config.wf = true ∧ s.nextAgent = .engine ∧ s.busy = true ∧ s.cur = some 6#32 ∧ decode 6#32 = .ok .huffDecomp ∧
      Instr.wf .huffDecomp = true :=
  ⟨by decide +kernel, rfl, rfl, by decide +kernel, rfl, rfl⟩

theorem witness_host_step :
    idle.config.wf = true ∧ idle.nextAgent = .host ∧ idle.script = [] ∧
      State.nextAgent { idle with script := [.wait] } = .host := by decide +kernel

/-- Both ends of both clauses: opcodes 0x00 and 0x07, and opcodes 0x01 and 0x06 with bit 8 set. -/
theorem witness_illegal_words :
    busyState.config.wf = true ∧ busyState.nextAgent = .engine ∧ busyState.busy = true ∧
      (0x00#32 : Word).toNat % 256 = 0 ∧ 6 < (0x07#32 : Word).toNat % 256 ∧
      (1 ≤ (0x101#32 : Word).toNat % 256 ∧ (0x101#32 : Word).toNat / 256 ≠ 0) ∧
      ((0x106#32 : Word).toNat % 256 ≤ 6 ∧ (0x106#32 : Word).toNat / 256 ≠ 0) := by
  decide +kernel

theorem witness_illegal_configuration :
    ({ defaultConfig with bufSize := 0 }.bufSize = 0) ∧
      (2 ^ 32 < { defaultConfig with bufSize := 2 ^ 32 + 1 }.bufSize) ∧
      (¬(List.replicate 64 1).Perm (List.range' 1 64)) ∧ ([1] : List Nat).length ≠ 56 ∧
      (∃ k ∈ [0], k < 1 ∨ 64 < k) ∧ (∃ k ∈ [57], k < 1 ∨ 56 < k) ∧ (∃ k ∈ [33], k < 1 ∨ 32 < k) ∧
      ¬[1, 1].Nodup ∧ ([] : List (List (List Nat))).length ≠ 8 ∧
      (∃ box ∈ [List.replicate 4 (List.replicate 16 16)], box.length ≠ 4 ∨
        ∃ row ∈ box, row.length ≠ 16 ∨ ∃ v ∈ row, 15 < v) := by decide +kernel

theorem witness_idle_and_busy : idle.busy = false ∧ busyState.busy = true ∧ busyState.Inv ∧ idle.fault = none := by
  decide +kernel

theorem witness_offsets :
    (0x004 % 4 = 0 ∧ 0x004 < 0x1000) ∧ (0x020 % 4 = 0) ∧ (0x024 ≤ 0x024 ∧ 0xFFC % 4 = 0 ∧ 0xFFC < 0x1000) ∧
      (2 ≠ 4 ∨ 0 % 4 ≠ 0 ∨ 0x1000 ≤ 0) ∧ (4 ≠ 4 ∨ 0x1000 % 4 ≠ 0 ∨ 0x1000 ≤ 0x1000) := by decide

/-- The last address of buffer memory and the first outside it; a defined and an undefined cell; a mark already set. -/
theorem witness_buffer_accesses :
    0xFFFFF < idle.config.bufSize ∧ idle.config.bufSize ≤ 0x100000 ∧ idle.mem.byteAt 0 = none ∧
      (small textA [] 0).mem.byteAt 0 = some 0x41 ∧ (small textA [] 0).busy = false ∧
      (idle.markFault (.undefinedRead 0)).fault = some (.undefinedRead 0) ∧
      (busyState.markFault (.undefinedRead 0)).busy = true ∧
      (busyState.markFault (.undefinedRead 0)).fault = some (.undefinedRead 0) := by decide +kernel

/-- Every check of R133 fails first in one of these states, at the boundary of its range, and passes in the last two:
the SRC region ends exactly at BUF_SIZE, and SRC and KEY coincide. -/
theorem witness_prechecks :
    State.precheck { idle with srcAddr := 0xFFFFF#32, srcLen := 2#32 } false = some .srcRange ∧
      State.precheck { idle with dstAddr := 0xFFFFF#32, dstCap := 2#32 } true = some .dstRange ∧
      State.precheck { idle with keyAddr := 0xFFFFFFF8#32, keyLen := 8#32 } true = some .keyRange ∧
      State.precheck { idle with srcLen := 16#32, dstAddr := 15#32, dstCap := 1#32 } true = some .overlapSrcDst ∧
      State.precheck { idle with keyAddr := 0x100#32, keyLen := 8#32, dstAddr := 0x107#32, dstCap := 1#32 } true =
        some .overlapKeyDst ∧
      State.precheck { idle with srcAddr := 0xFFFF0#32, srcLen := 16#32, dstAddr := 0xFFFE0#32, dstCap := 16#32 } true =
        none ∧
      State.precheck { idle with srcAddr := 8#32, srcLen := 8#32, keyAddr := 8#32, keyLen := 8#32, dstCap := 8#32 } true =
        none := by decide +kernel

/-- The arithmetic of the statement's clauses in the states of `witness_prechecks`. -/
theorem witness_precheck_arithmetic :
    ¬(0xFFFFF + 2 ≤ idle.config.bufSize) ∧ 0xFFFF0 + 16 ≤ idle.config.bufSize ∧ ¬(0xFFFFFFF8 + 8 ≤ idle.config.bufSize) ∧
      (0 < 16 ∧ 0 < 1 ∧ 0 < 15 + 1 ∧ 15 < 0 + 16) ∧ (0 < 8 ∧ 0 < 1 ∧ 0x100 < 0x107 + 1 ∧ 0x107 < 0x100 + 8) ∧
      ¬(0 < 16 ∧ 0 < 16 ∧ 0xFFFF0 < 0xFFFE0 + 16 ∧ 0xFFFE0 < 0xFFFF0 + 16) := by decide +kernel

/-- A codec command that reads one defined cell and then an undefined one. -/
theorem witness_undefined_fetch_codec :
    let s := { small textA [] 2 with srcLen := 3#32 }
    s.precheck (isKeyed .lzwComp) = none ∧ ReadsCell .lzwComp s 1 ∧ s.mem.byteAt 1 = none ∧
      (∀ b, b < 1 → ReadsCell .lzwComp s b → s.mem.byteAt b ≠ none) := by decide +kernel

/-- A cipher command whose KEY region lies below an undefined SRC cell. -/
theorem witness_undefined_fetch_keyed :
    let s := { idle with srcAddr := 2#32, srcLen := 1#32, keyLen := 1#32 }
    s.precheck (isKeyed .feiEnc) = none ∧ ReadsCell .feiEnc s 0 ∧ s.mem.byteAt 0 = none ∧
      (∀ b, b < 0 → ReadsCell .feiEnc s b → s.mem.byteAt b ≠ none) := by decide +kernel

/-- FEI_ENC: a key of seven bytes, a capacity of 15 for eight bytes of plaintext, and one of 16. -/
theorem witness_feiEnc :
    (∀ cap ∈ [15, 16], SrcHolds (small key0 key0 cap) key0 ∧ KeyHolds (small key0 key0 cap) key0 ∧
      (small key0 key0 cap).precheck true = none) ∧
      8 ≤ (small key0 key0 15).keyLen.toNat ∧
      (small key0 key0 15).dstCap.toNat < 8 * ((small key0 key0 15).srcLen.toNat / 8 + 1) ∧
      8 * ((small key0 key0 16).srcLen.toNat / 8 + 1) ≤ (small key0 key0 16).dstCap.toNat ∧
      (small key0 (key0.take 7) 16).keyLen.toNat < 8 ∧ (small key0 (key0.take 7) 16).precheck true = none ∧
      SrcHolds (small key0 (key0.take 7) 16) key0 ∧ KeyHolds (small key0 (key0.take 7) 16) (key0.take 7) := by
  decide +kernel

/-- FEI_DEC on a key of seven bytes, and on an empty and a seven-byte ciphertext. -/
theorem witness_feiDec_early_errors :
    (small key0 (key0.take 7) 16).keyLen.toNat < 8 ∧ (small [] key0 0).srcLen.toNat = 0 ∧
      (small (key0.take 7) key0 0).srcLen.toNat % 8 ≠ 0 ∧
      (∀ src ∈ [[], key0.take 7], SrcHolds (small src key0 0) src ∧ KeyHolds (small src key0 0) key0 ∧
        (small src key0 0).precheck true = none) := by decide +kernel

/-- The decrypted block of an eight-byte ciphertext under `key0`. -/
def decrypted (src : Bytes) : Bytes :=
  ecb defaultConfig src (keySchedule defaultConfig (BitVec.ofNat 64 (be key0))).reverse

/-- The ciphertexts of V-FEI-15 and V-FEI-12: pad lengths 0, 9, 2 (mismatched), 1 and 8, with the sources held. -/
theorem witness_feiDec_pads :
    (∀ src ∈ [[0xD5, 0xD4, 0x4F, 0xF7, 0x20, 0x68, 0x3D, 0x0D], [0xBE, 0x5A, 0xB0, 0xEE, 0xAA, 0x9E, 0xEF, 0xEF],
        [0x47, 0x36, 0x85, 0x1E, 0xE0, 0x42, 0xB9, 0xCD], [0xE3, 0xD5, 0x1E, 0x89, 0x46, 0x8C, 0x2A, 0x3E],
        [0x08, 0x6F, 0x9A, 0x1D, 0x74, 0xC9, 0x4D, 0x4E]],
      SrcHolds (small src key0 6) src ∧ KeyHolds (small src key0 6) key0 ∧ (small src key0 6).precheck true = none) ∧
      ((decrypted [0xD5, 0xD4, 0x4F, 0xF7, 0x20, 0x68, 0x3D, 0x0D]).getLastD 0#8).toNat = 0 ∧
      ((decrypted [0xBE, 0x5A, 0xB0, 0xEE, 0xAA, 0x9E, 0xEF, 0xEF]).getLastD 0#8).toNat = 9 ∧
      ((decrypted [0x47, 0x36, 0x85, 0x1E, 0xE0, 0x42, 0xB9, 0xCD]).getLastD 0#8).toNat = 2 ∧
      (decrypted [0x47, 0x36, 0x85, 0x1E, 0xE0, 0x42, 0xB9, 0xCD])[8 - 2]? ≠ some 2#8 ∧
      (decrypted [0xE3, 0xD5, 0x1E, 0x89, 0x46, 0x8C, 0x2A, 0x3E])[8 - 1]? = some 1#8 ∧
      (small [0xE3, 0xD5, 0x1E, 0x89, 0x46, 0x8C, 0x2A, 0x3E] key0 6).dstCap.toNat < 8 - 1 ∧
      decrypted [0x08, 0x6F, 0x9A, 0x1D, 0x74, 0xC9, 0x4D, 0x4E] = List.replicate 8 8#8 ∧
      8 - 8 ≤ (small [0x08, 0x6F, 0x9A, 0x1D, 0x74, 0xC9, 0x4D, 0x4E] key0 6).dstCap.toNat := by decide +kernel

/-- LZW_COMP of "AB" gives three bytes: a capacity of three and of two. -/
theorem witness_lzwComp :
    (∀ cap ∈ [2, 3], SrcHolds (small textAB [] cap) textAB ∧ (small textAB [] cap).precheck false = none) ∧
      (pack12 (lzwEncodeCodes textAB)).length = 3 := by decide +kernel

/-- LZW_DECOMP: both errors, and an output of three bytes for a capacity of three and of two. -/
theorem witness_lzwDecomp :
    (∀ src ∈ [[0x10, 0x00, 0x41], [0x04, 0x11, 0x01], [0x04, 0x11, 0x00]], ∀ cap ∈ [2, 3],
      SrcHolds (small src [] cap) src ∧ (small src [] cap).precheck false = none) ∧
      lzwDecodeCodes (unpack12 [0x10, 0x00, 0x41]) = .error .lzwBadFirstCode ∧
      lzwDecodeCodes (unpack12 [0x04, 0x11, 0x01]) = .error .lzwCodeAhead ∧
      lzwDecodeCodes (unpack12 [0x04, 0x11, 0x00]) = .ok [0x41, 0x41, 0x41] := by decide +kernel

/-- HUFF_COMP of the empty input gives 1284 bytes: a capacity of 1284 and of 1283. -/
theorem witness_huffComp :
    (∃ out, huffCompress [] = .ok out ∧ out.length = 1284) ∧
      (∀ cap ∈ [1283, 1284], SrcHolds (small [] [] cap) [] ∧ (small [] [] cap).precheck false = none ∧
        (small [] [] cap).dstCap.toNat = cap) := by
  refine ⟨⟨_, rfl, ?_⟩, ?_⟩ <;> decide +kernel

/-- HUFF_DECOMP: the four errors, and an output of one byte for a capacity of one and of zero. -/
theorem witness_huffDecomp :
    huffDecompress (artifact 1 (fun _ => 0) []) = .error .huffEmptyTree ∧
      huffDecompress ((artifact 1 (fun _ => 0) []).take 1283) = .error .huffHeaderTruncated ∧
      huffDecompress (artifact 1 (fun b => if b = 0x41 then 1 else 0) []) = .error .huffBitsExhausted ∧
      huffDecompress (artifact 1 (fun b => if b = 0x41 then 1 else 0) [0x80]) = .error .huffOffTree ∧
      huffDecompress (artifact 1 (fun b => if b = 0x41 then 1 else 0) [0x00]) = .ok [0x41] := by
  refine ⟨?_, ?_, ?_, ?_, ?_⟩ <;> exact huffDecompress_of_evaluated (by decide +kernel)

/-- A zero original length; an all-zero table; and for the table of one "A" the tree, its codeword, and a body cut short,
one with a 1 bit, and one with the codeword. -/
theorem witness_huffDecomp_bodies :
    be ((artifact 0 (fun _ => 7) []).take 4) = 0 ∧ be ((artifact 1 (fun _ => 0) []).take 4) ≠ 0 ∧
      buildTree ((List.range 256).map (fun b => if b = 0x41 then 1 else 0)) = some (.synthetic 1 (.leaf 0x41 1)) ∧
      codewords (.synthetic 1 (.leaf 0x41 1)) = [(0x41, [false])] ∧
      bitsOfBytes [] = ([] : Bytes).flatMap (codewordOf [(0x41, [false])]) ++ [] ∧
      ([] <+: [false] ∧ ([] : List Bool) ≠ [false]) ∧
      (bitsOfBytes [0x80]).head? = some true ∧
      bitsOfBytes [0x00] = [0x41].flatMap (codewordOf [(0x41, [false])]) ++ List.replicate 7 false := by
  decide +kernel

theorem witness_huffDecomp_state :
    let src := artifact 1 (fun b => if b = 0x41 then 1 else 0) [0x00]
    ∀ cap ∈ [0, 1], SrcHolds (small src [] cap) src ∧ (small src [] cap).precheck false = none := by
  intro src cap hcap
  have hl : src.length ≤ 0x800 := by decide +kernel
  refine ⟨small_src_holds src [] cap hl, ?_⟩
  have : ∀ cap ∈ [0, 1], (small src [] cap).precheck false = none := by decide +kernel
  exact this cap hcap

/-- A success, an ARGUMENT error and another error, each a next state; a codec and a cipher command. -/
theorem witness_completions :
    (∃ t, exec .lzwComp (small textAB [] 3) = .next t ∧ t.err = 0#3) ∧
      (∃ t, exec .feiEnc (small textA [] 8) = .next t ∧ t.err = 1#3) ∧
      (∃ t, exec .lzwComp (small textAB [] 2) = .next t ∧ t.err ≠ 0#3 ∧ t.err ≠ 1#3) := by
  refine ⟨?_, ?_, ?_⟩
  · obtain ⟨t, h, hp⟩ := exists_next (o := exec .lzwComp (small textAB [] 3)) (fun t => decide (t.err = 0#3)) (by decide +kernel)
    exact ⟨t, h, of_decide_eq_true hp⟩
  · obtain ⟨t, h, hp⟩ := exists_next (o := exec .feiEnc (small textA [] 8)) (fun t => decide (t.err = 1#3)) (by decide +kernel)
    exact ⟨t, h, of_decide_eq_true hp⟩
  · obtain ⟨t, h, hp⟩ := exists_next (o := exec .lzwComp (small textAB [] 2))
      (fun t => decide (t.err ≠ 0#3 ∧ t.err ≠ 1#3)) (by decide +kernel)
    exact ⟨t, h, of_decide_eq_true hp⟩

/-- Two states that share a command's inputs and differ elsewhere. -/
theorem witness_same_inputs :
    let s := small textAB [] 3
    let s' := { s with mem := s.mem.write 0x2000 textA, responses := [.byte 0 0] }
    SameOperands s s' ∧ s'.config = s.config ∧ isKeyed .lzwComp = false ∧
      (∀ a, ReadsCell .lzwComp s a → s'.mem.byteAt a = s.mem.byteAt a) ∧ FetchesDefined .lzwComp s := by
  refine ⟨⟨rfl, rfl, rfl, rfl, rfl, rfl⟩, rfl, rfl, fun a ha => byteAt_write_outside (Or.inl ?_), fun _ a ha => ?_⟩
  all_goals have h : (small textAB [] 3).srcAddr.toNat = 0 ∧ (small textAB [] 3).srcLen.toNat = 2 := by decide
  · rcases ha with ha | ha
    · omega
    · exact absurd ha.1 (by decide)
  · have hlt : a < 2 := by
      rcases ha with ha | ha
      · omega
      · exact absurd ha.1 (by decide)
    have hd : ∀ a, a < 2 → (small textAB [] 3).mem.byteAt a ≠ none := by decide +kernel
    exact hd a hlt

/-- A codec command that meets an undefined cell, and so completes with a free outcome. -/
theorem witness_codec_undefined :
    exec .huffComp { idle with srcLen := 1#32 } = .next (State.commitUndefined { idle with srcLen := 1#32 } 0) := rfl

/-- A legal state in which steps run: a start, a reset and a completion, with the marks set. -/
def marked (script : List HostOp) : State :=
  { idle with script := script, refused := true, fault := some (.undefinedRead 7) }

theorem witness_step_start :
    (marked [.regWrite 4 0x000 3#32]).Inv ∧ (marked [.regWrite 4 0x000 3#32]).nextAgent = .host ∧
      ∃ t, step (marked [.regWrite 4 0x000 3#32]) = .next t ∧
        statusWord t ≠ statusWord (marked [.regWrite 4 0x000 3#32]) := by
  refine ⟨by decide +kernel, rfl, ?_⟩
  obtain ⟨t, h, hp⟩ := exists_next (o := step (marked [.regWrite 4 0x000 3#32]))
    (fun t => decide (statusWord t ≠ statusWord (marked [.regWrite 4 0x000 3#32]))) (by decide +kernel)
  exact ⟨t, h, of_decide_eq_true hp⟩

theorem witness_step_completion :
    let s := { small textAB [] 3 with busy := true, cur := some 3#32 }
    s.Inv ∧ s.config.wf = true ∧ s.nextAgent = .engine ∧
      ∃ t, step s = .next t ∧ statusWord t ≠ statusWord s ∧ t.mem.byteAt 0x1002 ≠ s.mem.byteAt 0x1002 := by
  refine ⟨by decide +kernel, by decide +kernel, rfl, ?_⟩
  obtain ⟨t, h, hp⟩ := exists_next (o := step { small textAB [] 3 with busy := true, cur := some 3#32 })
    (fun t => decide (statusWord t ≠ 1#32 ∧ t.mem.byteAt 0x1002 ≠ none)) (by decide +kernel)
  have hs : statusWord { small textAB [] 3 with busy := true, cur := some 3#32 } = 1#32 := by decide +kernel
  have hm : Memory.byteAt (small textAB [] 3).mem 0x1002 = none := by decide +kernel
  refine ⟨t, h, ?_, ?_⟩
  · rw [hs]; exact (of_decide_eq_true hp).1
  · show t.mem.byteAt 0x1002 ≠ Memory.byteAt (small textAB [] 3).mem 0x1002
    rw [hm]; exact (of_decide_eq_true hp).2

/-- A reset in the middle of a command changes STATUS, a configuration register and a cell of the DST region. -/
theorem witness_step_reset :
    let s := { small textAB [] 3 with busy := true, cur := some 3#32, mem := [(0x1002, 0xAA)], script := [.reset],
                                      turns := [.host] }
    s.nextAgent = .host ∧ ∃ t, step s = .next t ∧ statusWord t ≠ 1#32 ∧ t.dstAddr ≠ s.dstAddr ∧
      t.mem.byteAt 0x1002 = none := by
  refine ⟨rfl, ?_⟩
  obtain ⟨t, h, hp⟩ := exists_next
    (o := step { small textAB [] 3 with busy := true, cur := some 3#32, mem := [(0x1002, 0xAA)], script := [.reset],
                                        turns := [.host] })
    (fun t => decide (statusWord t ≠ 1#32 ∧ t.dstAddr ≠ 0x1000#32 ∧ t.mem.byteAt 0x1002 = none)) (by decide +kernel)
  exact ⟨t, h, of_decide_eq_true hp⟩

/-- A host write changes a buffer cell, and another a configuration register. -/
theorem witness_step_host_writes :
    (∃ t, step (marked [.bufWrite 5 0xAA]) = .next t ∧ t.mem.byteAt 5 ≠ none) ∧
      (∃ t, step (marked [.regWrite 4 0x01C 9#32]) = .next t ∧ t.keyLen ≠ 0#32) := by
  refine ⟨?_, ?_⟩
  · obtain ⟨t, h, hp⟩ := exists_next (o := step (marked [.bufWrite 5 0xAA])) (fun t => decide (t.mem.byteAt 5 ≠ none))
      (by decide +kernel)
    exact ⟨t, h, of_decide_eq_true hp⟩
  · obtain ⟨t, h, hp⟩ := exists_next (o := step (marked [.regWrite 4 0x01C 9#32])) (fun t => decide (t.keyLen ≠ 0#32))
      (by decide +kernel)
    exact ⟨t, h, of_decide_eq_true hp⟩

theorem witness_every_command_completes :
    let s := { small textA [] 2 with busy := true, cur := some 3#32 }
    s.config.wf = true ∧ s.Inv ∧ s.busy = true ∧ s.nextAgent = .engine :=
  ⟨by decide +kernel, by decide +kernel, rfl, rfl⟩

/-- Two host turns while BUSY = 1: operations that mark the run, and STATUS reads. -/
theorem witness_host_turns :
    let s := { busyState with turns := List.replicate 2 .host }
    s.config.wf = true ∧ s.busy = true ∧ s.turns = List.replicate 2 .host ∧ s.Inv ∧
      .reset ∉ [HostOp.bufRead 5, .regRead 4 0x004] ∧
      List.replicate 2 (HostOp.regRead 4 0x004) ++ [.wait] = [.regRead 4 0x004, .regRead 4 0x004, .wait] := by
  decide +kernel

theorem witness_perm : ([2, 1] : List Nat).length = 2 ∧ (∀ k ∈ [2, 1], 1 ≤ k ∧ k ≤ 2) ∧ (1 ≤ 1 ∧ 1 ≤ 2) ∧ 2 ≤ 2 := by decide

theorem witness_feistel_tables :
    defaultConfig.ipOk = true ∧ defaultConfig.wf = true ∧ 8 ≤ key0.length ∧ key0.length % 8 = 0 ∧ key0.length = 8 := by
  decide +kernel

theorem witness_parity : ∀ j, 1 ≤ j → j ≤ 64 → j % 8 ≠ 0 → dbit 0x0101010101010101#64 j = dbit 0#64 j := by
  have h : ∀ j, j < 65 → j % 8 ≠ 0 → dbit 0x0101010101010101#64 j = dbit 0#64 j := by decide +kernel
  exact fun j _ hj hm => h j (by omega) hm

theorem witness_feistel_lengths :
    (∃ y, feiEncrypt defaultConfig [] 8 key0 = .ok y) ∧
      feiDecrypt defaultConfig [0xE3, 0xD5, 0x1E, 0x89, 0x46, 0x8C, 0x2A, 0x3E] 8 key0 =
        .ok [0x41, 0x42, 0x43, 0x44, 0x45, 0x46, 0x01] := by
  refine ⟨⟨_, rfl⟩, ?_⟩
  decide +kernel

theorem witness_lzw_counts : textA ≠ [] ∧ lzwCompress textA = .ok [0x04, 0x10] := by decide +kernel

/-- First codes 255 and 256; second codes 255, 256 and 257. -/
theorem witness_lzw_codes :
    255 < (256#12 : Code).toNat ∧ (255#12 : Code).toNat ≤ 255 ∧ (256#12 : Code).toNat = 256 ∧
      256 < (257#12 : Code).toNat := by decide

theorem witness_huff_compress : textAB.length < 2 ^ 32 ∧ ∃ out, huffCompress textAB = .ok out := ⟨by decide, _, rfl⟩

/-- A built tree with two codewords. -/
theorem witness_codewords :
    (frequencies textAB).length = 256 ∧ (buildTree (frequencies textAB)).map codewords = some [(0x41, [false]), (0x42, [true])] := by decide +kernel

/-- A heap in order, what it extracts, and tables with no, one and two leaves. -/
theorem witness_heap :
    HeapOrdered [.leaf 1 2, .leaf 2 5, .leaf 3 5] ∧
      heapExtract [.leaf 1 2, .leaf 2 5, .leaf 3 5] = some (.leaf 1 2, [.leaf 3 5, .leaf 2 5]) ∧
      leavesOf [] = [] ∧ (leavesOf [3, 0, 4]).length = 2 ∧
      (0x41 < (frequencies textA).length ∧ (frequencies textA).length = 256 ∧ 0 < (frequencies textA).getD 0x41 0) ∧
      (∀ x, x < 256 → x ≠ 0x41 → (frequencies textA).getD x 0 = 0) := by decide +kernel

/-- The clauses of the heap's two loops where weights meet: a node as heavy as its parent and a lighter one; a parent as
heavy as both children; a tie between lighter children; and a right child lighter than the left. -/
theorem witness_sift :
    heapWeight [.leaf 1 5] ((1 - 1) / 2) ≤ (Node.leaf 2 5).weight ∧
      heapWeight [.leaf 1 5, .leaf 2 4] 1 < heapWeight [.leaf 1 5, .leaf 2 4] ((1 - 1) / 2) ∧
      siftDown 1 [.leaf 1 5, .leaf 2 5, .leaf 3 5] 0 = [.leaf 1 5, .leaf 2 5, .leaf 3 5] ∧
      siftDown 1 [.leaf 1 5, .leaf 2 4, .leaf 3 4] 0 = [.leaf 2 4, .leaf 1 5, .leaf 3 4] ∧
      siftDown 1 [.leaf 1 5, .leaf 2 4, .leaf 3 3] 0 = [.leaf 3 3, .leaf 2 4, .leaf 1 5] := by decide +kernel

/-- R163's layout: the bits of codes 0x041 and 0x102, and the four zero bits after an odd number of codes. -/
theorem test_pack_bits :
    pack12 [0x041#12, 0x102#12] = [0x04, 0x11, 0x02] ∧ pack12 [0xFFF#12] = [0xFF, 0xF0] ∧
      bitsOfBytes [0xFF, 0xF0] = codeBits 0xFFF#12 ++ List.replicate 4 false := by decide +kernel

/-- The zero block, half and subkey meet the hypotheses of the round function's clauses under the default tables. -/
theorem witness_round_function :
    defaultConfig.wf = true ∧ perm 64 defaultConfig.ip 0#64 = 0#32 ++ 0#32 ∧
      perm 64 defaultConfig.ip
        (perm 64 (inverseTable defaultConfig.ip) (0#32 ++ (0#32 ^^^ feistelF defaultConfig 0#32 0#48)) : BitVec 64) =
        0#32 ++ (0#32 ^^^ feistelF defaultConfig 0#32 0#48) ∧
      (∀ j, j < 49 → dbit 0#48 j = (dbit 0#32 (defaultConfig.expansion.getD (j - 1) 0) ^^ dbit 0#48 j)) := by
  decide +kernel

/-- Entries and codes for each clause of the LZW loops: an entry to extend by, none, a known code, the special case, and
one ahead. -/
theorem witness_lzw_loops :
    ([0x41, 0x42] : Bytes) ∈ [[0x41], [0x41, 0x42]] ∧ ([0x41, 0x43] : Bytes) ∉ [[0x41], [0x41, 0x42]] ∧
      ([[0x41], [0x42]] : Dict)[(1#12 : Code).toNat]? = some [0x42] ∧ (2#12 : Code).toNat = ([[0x41], [0x42]] : Dict).length ∧
      ([[0x41], [0x42]] : Dict).length < (3#12 : Code).toNat := by decide

theorem witness_huff_code_lengths :
    ([0, 0, 0, 0] : Bytes).length = 4 ∧ (List.replicate 256 0 : Bytes).length = 256 ∧
      (List.replicate 256 1 : Bytes).length = 256 ∧
      huffDecompress ([0, 0, 0, 0] ++ List.replicate 256 0 ++ List.replicate 1024 0) = .ok [] := by decide +kernel

end Sys2Proof.Tests
end

section
/-!
PROOFS of the state family (10_state.md), the rules of the ports. When a register access is carried and what it then does, and
the one inversion lemma for a host operation: it leaves the engine alone, writes a register, writes a cell, or resets.
-/

namespace Sys2Proof.Machine

/-! ## The register map -/

/-- The register map is the inverse of the offsets of R31. -/
theorem regAt_eq_some_iff (off : Nat) (r : RegName) : regAt off = some r ↔ off = offsetOf r := by
  constructor
  · intro h
    unfold regAt at h
    repeat' split at h
    all_goals cases h
    all_goals assumption
  · rintro rfl
    cases r <;> rfl

theorem regAt_eq_none_of_reserved {off : Nat} (h : 0x024 ≤ off) : regAt off = none := by
  cases hr : regAt off with
  | none => rfl
  | some r =>
    rw [regAt_eq_some_iff] at hr
    cases r <;> simp only [offsetOf] at hr <;> omega

theorem regAccessOk_iff (size off : Nat) :
    regAccessOk size off = true ↔ size = 4 ∧ off % 4 = 0 ∧ off < 0x1000 := by
  simp [regAccessOk, and_assoc]

theorem regAccessOk_offsetOf (r : RegName) : regAccessOk 4 (offsetOf r) = true := by
  cases r <;> rfl

@[simp] theorem regValue_offsetOf (s : State) (r : RegName) : s.regValue (offsetOf r) = s.readReg r := by
  rw [State.regValue, (regAt_eq_some_iff _ r).mpr rfl]

theorem regValue_of_reserved (s : State) {off : Nat} (h : 0x024 ≤ off) : s.regValue off = 0#32 := by
  rw [State.regValue, regAt_eq_none_of_reserved h]

/-! ## Register accesses -/

theorem hostRegRead_of_ok (s : State) {size off : Nat} (h : regAccessOk size off = true) :
    s.hostRegRead size off = s.respond (.word off (s.regValue off)) := if_pos h

theorem hostRegRead_of_not_ok (s : State) {size off : Nat} (h : ¬regAccessOk size off = true) :
    s.hostRegRead size off = s.markRefused := if_neg h

theorem hostRegWrite_of_not_ok (s : State) {size off : Nat} (w : Word) (h : ¬regAccessOk size off = true) :
    s.hostRegWrite size off w = s.markRefused := if_neg h

theorem hostRegWrite_of_busy {s : State} {size off : Nat} (w : Word) (h : regAccessOk size off = true)
    (hb : s.busy = true) : s.hostRegWrite size off w = s := by
  rw [State.hostRegWrite, if_pos h, if_pos hb]

theorem hostRegWrite_of_regAt_none (s : State) {size off : Nat} (w : Word) (h : regAccessOk size off = true)
    (hr : regAt off = none) : s.hostRegWrite size off w = s := by
  simp [State.hostRegWrite, h, hr]

theorem hostRegWrite_of_regAt_some {s : State} {size off : Nat} {r : RegName} (w : Word)
    (h : regAccessOk size off = true) (hb : s.busy = false) (hr : regAt off = some r) :
    s.hostRegWrite size off w = s.writeReg w r := by
  simp [State.hostRegWrite, h, hb, hr]

/-- A carried write to the register `r` while idle (R32 to R35). -/
theorem hostRegWrite_offsetOf {s : State} (r : RegName) (w : Word) (hb : s.busy = false) :
    s.hostRegWrite 4 (offsetOf r) w = s.writeReg w r :=
  hostRegWrite_of_regAt_some w (regAccessOk_offsetOf r) hb ((regAt_eq_some_iff _ r).mpr rfl)

theorem hostRegWrite_offsetOf_of_busy {s : State} (r : RegName) (w : Word) (hb : s.busy = true) :
    s.hostRegWrite 4 (offsetOf r) w = s :=
  hostRegWrite_of_busy w (regAccessOk_offsetOf r) hb

theorem hostRegRead_offsetOf (s : State) (r : RegName) :
    s.hostRegRead 4 (offsetOf r) = s.respond (.word (offsetOf r) (s.readReg r)) := by
  rw [hostRegRead_of_ok s (regAccessOk_offsetOf r), regValue_offsetOf]

/-! ## Buffer accesses while idle -/

theorem hostBufRead_of_idle {s : State} {a : Nat} (ha : a < s.config.bufSize) (hb : s.busy = false) :
    (∀ b, s.mem.byteAt a = some b → s.hostBufRead a = s.respond (.byte a b)) ∧
      (s.mem.byteAt a = none → s.hostBufRead a = s.markFault (.undefinedRead a)) := by
  rw [State.hostBufRead, if_neg (Nat.not_le.mpr ha), if_neg (by simp [hb])]
  exact ⟨fun b h => by simp only [h], fun h => by simp only [h]⟩

theorem hostBufWrite_of_idle {s : State} {a : Nat} (b : Byte) (ha : a < s.config.bufSize) (hb : s.busy = false) :
    s.hostBufWrite a b = { s with mem := s.mem.write a [b] } := by
  rw [State.hostBufWrite, if_neg (Nat.not_le.mpr ha), if_neg (by simp [hb])]

/-- Only the first fault is kept (R48). -/
theorem markFault_of_fault {s : State} {g : Fault} (h : s.fault = some g) (f : Fault) : s.markFault f = s := by
  rw [State.markFault, h, Option.some_or, ← h]

/-! ## What a host operation can do -/

/-- `t` is `s` but for the marks, the script and the responses: the host did something that leaves the engine alone. -/
def SameEngine (s t : State) : Prop :=
  t = { s with refused := t.refused, fault := t.fault, script := t.script, responses := t.responses }

theorem SameEngine.refl (s : State) : SameEngine s s := rfl

theorem SameEngine.markRefused (s : State) : SameEngine s s.markRefused := rfl

theorem SameEngine.markFault (s : State) (f : Fault) : SameEngine s (s.markFault f) := rfl

theorem SameEngine.respond (s : State) (r : Response) : SameEngine s (s.respond r) := rfl

theorem SameEngine.hostWait (s : State) : SameEngine s s.hostWait := by
  rw [hostWait_eq]
  exact rfl

/-- Everything a host operation can do: leave the engine alone, write a register while idle, write a cell of buffer memory
while idle, or reset (R30). -/
theorem hostOp_cases (s : State) (op : HostOp) :
    SameEngine s (s.hostOp op) ∨
      (s.busy = false ∧ ∃ r w, op = .regWrite 4 (offsetOf r) w ∧ s.hostOp op = s.writeReg w r) ∨
      (s.busy = false ∧ ∃ a b, op = .bufWrite a b ∧ a < s.config.bufSize ∧
        s.hostOp op = { s with mem := s.mem.write a [b] }) ∨
      (op = .reset ∧ s.hostOp op = s.applyReset) := by
  cases op with
  | regRead size off =>
    refine .inl ?_
    change SameEngine s (s.hostRegRead size off)
    obtain h | h := hostRegRead_cases s size off <;> rw [h]
    · exact .markRefused s
    · exact .respond s _
  | regWrite size off w =>
    change SameEngine s (s.hostRegWrite size off w) ∨ _
    by_cases hok : regAccessOk size off = true
    · obtain hb | hb := Bool.eq_false_or_eq_true s.busy
      · exact .inl (by rw [hostRegWrite_of_busy w hok hb]; exact .refl s)
      · cases hr : regAt off with
        | none => exact .inl (by rw [hostRegWrite_of_regAt_none s w hok hr]; exact .refl s)
        | some r =>
          obtain ⟨rfl, -, -⟩ := (regAccessOk_iff size off).mp hok
          obtain rfl := (regAt_eq_some_iff off r).mp hr
          exact .inr (.inl ⟨hb, r, w, rfl, hostRegWrite_offsetOf r w hb⟩)
    · exact .inl (hostRegWrite_of_not_ok s w hok ▸ .markRefused s)
  | bufRead a =>
    refine .inl ?_
    change SameEngine s (s.hostBufRead a)
    obtain h | ⟨f, h⟩ | ⟨b, -, h⟩ := hostBufRead_cases s a <;> rw [h]
    · exact .markRefused s
    · exact .markFault s f
    · exact .respond s _
  | bufWrite a b =>
    obtain h | ⟨f, h⟩ | ⟨ha, hb, h⟩ := hostBufWrite_cases s a b
    · exact .inl (h ▸ .markRefused s : SameEngine s (s.hostBufWrite a b))
    · exact .inl (h ▸ .markFault s f : SameEngine s (s.hostBufWrite a b))
    · exact .inr (.inr (.inl ⟨hb, a, b, rfl, ha, h⟩))
  | reset => exact .inr (.inr (.inr ⟨rfl, rfl⟩))
  | wait => exact .inl (.hostWait s)

/-- The host's turn does nothing when the script is empty and otherwise takes the next operation off it (R81). -/
theorem hostTurn_cases (s : State) :
    (s.script = [] ∧ s.hostTurn = s) ∨
      ∃ op rest, s.script = op :: rest ∧ s.hostTurn = State.hostOp { s with script := rest } op := by
  unfold State.hostTurn
  split
  case h_1 h => exact .inl ⟨h, rfl⟩
  case h_2 op rest h => exact .inr ⟨op, rest, h, rfl⟩

end Sys2Proof.Machine
end

section
/-!
PROOFS of the state family (10_state.md), the invariant: each update of the state keeps it, so every step does.
-/

namespace Sys2Proof.Machine

/-! ## The updates of the engine -/

/-- The invariant says nothing of the marks, the script and the responses. -/
theorem SameEngine.inv {s t : State} (h : SameEngine s t) (hs : s.Inv) : t.Inv := by
  rw [h]
  exact hs

theorem start_inv {s : State} (hs : s.Inv) (w : Word) : (s.start w).Inv := by
  obtain ⟨-, -, -, hmem⟩ := hs
  exact ⟨rfl, ⟨by simp, fun _ => ⟨rfl, rfl, rfl⟩⟩, .inl ⟨rfl, rfl⟩, hmem⟩

theorem writeReg_inv {s : State} (hs : s.Inv) (w : Word) (r : RegName) : (s.writeReg w r).Inv := by
  cases r with
  | cmd => exact start_inv hs w
  | status | srcAddr | srcLen | dstAddr | dstCap | keyAddr | keyLen | resultLen => exact hs

theorem undefine_memLegal {s : State} (hs : s.MemLegal) (a n : Nat) : { s with mem := s.mem.undefine a n }.MemLegal :=
  ⟨undefine_wf hs.1 a n, undefine_bounded hs.2⟩

theorem write_memLegal {s : State} {a : Nat} {out : Bytes} (hs : s.MemLegal) (h : a + out.length ≤ s.config.bufSize) :
    { s with mem := s.mem.write a out }.MemLegal :=
  ⟨write_wf hs.1 a out, write_bounded hs.2 h⟩

theorem applyReset_inv {s : State} (hs : s.MemLegal) : s.applyReset.Inv := by
  have hmem : s.applyReset.MemLegal := by
    rw [State.MemLegal, State.applyReset_mem, State.memAfterReset]
    split
    · exact undefine_memLegal hs _ _
    · exact hs
  exact ⟨rfl, ⟨by simp, fun _ => ⟨rfl, rfl, rfl⟩⟩, .inl ⟨rfl, rfl⟩, hmem⟩

theorem commitError_inv {s : State} (hs : s.MemLegal) (d : Detail) : (s.commitError d).Inv := by
  have hmem : (s.commitError d).MemLegal := by
    rw [State.MemLegal, State.commitError_mem, State.memAfterError]
    split
    · exact hs
    · exact undefine_memLegal hs _ _
  exact ⟨rfl, ⟨by simp, by simp⟩, .inr ⟨rfl, d, mem_allDetails d, rfl, rfl⟩, hmem⟩

theorem commitOk_inv {s : State} {out : Bytes} (hs : s.MemLegal)
    (h : s.dstAddr.toNat + out.length ≤ s.config.bufSize) : (s.commitOk out).Inv :=
  ⟨rfl, ⟨by simp, by simp⟩, .inl ⟨rfl, rfl⟩, write_memLegal hs h⟩

/-! ## The two agents -/

theorem hostOp_inv {s : State} (hs : s.Inv) (op : HostOp) : (s.hostOp op).Inv := by
  obtain h | ⟨-, r, w, -, h⟩ | ⟨-, a, b, -, ha, h⟩ | ⟨-, h⟩ := hostOp_cases s op
  · exact h.inv hs
  · exact h ▸ writeReg_inv hs w r
  · obtain ⟨hcur, hstatus, herr, hmem⟩ := hs
    exact h ▸ ⟨hcur, hstatus, herr, write_memLegal hmem ha⟩
  · obtain ⟨-, -, -, hmem⟩ := hs
    exact h ▸ applyReset_inv hmem

theorem hostTurn_inv {s : State} (hs : s.Inv) : s.hostTurn.Inv := by
  obtain ⟨-, h⟩ | ⟨op, rest, -, h⟩ := hostTurn_cases s
  · rwa [h]
  · exact h ▸ hostOp_inv (s := { s with script := rest }) hs op

/-- A command's completion needs only legal memory: its checks keep the output inside buffer memory (R133, R136). -/
theorem exec_inv {i : Instr} {s t : State} (hs : s.MemLegal) (h : exec i s = .next t) : t.Inv := by
  have fits {out : Bytes} (hp : s.precheck (isKeyed i) = none) (hl : out.length ≤ s.dstCap.toNat) :
      s.dstAddr.toNat + out.length ≤ s.config.bufSize := by
    obtain ⟨-, hdst, -⟩ := precheck_none hp
    omega
  obtain ⟨d, he⟩ | ⟨hp, out, hl, he⟩ | ⟨hp, a, -, he⟩ := exec_cases i s <;> cases h.symm.trans he
  · exact commitError_inv hs d
  · exact commitOk_inv hs (fits hp hl)
  · obtain ⟨d, hu⟩ | ⟨out, hl, hu⟩ := commitUndefined_cases s a
    · exact hu ▸ commitError_inv hs d
    · exact hu ▸ commitOk_inv hs (fits hp hl)

/-- Settles O35: the host's turn keeps every part of the invariant, and a completion needs only legal memory. -/
theorem stepKeepsInvariant : Obligations.StepKeepsInvariant := by
  intro s t hs h
  obtain ⟨-, rfl⟩ | ⟨-, ⟨-, rfl⟩ | ⟨-, -, rfl⟩ | ⟨-, -, w, -, ⟨e, -, rfl⟩ | ⟨i, -, he⟩⟩⟩ := step_next h
  · exact hs
  · exact hostTurn_inv (s := s.popTurn) hs
  · exact hs
  · obtain ⟨-, -, -, hmem⟩ := hs
    exact commitError_inv (s := s.popTurn) hmem _
  · obtain ⟨-, -, -, hmem⟩ := hs
    exact exec_inv (s := s.popTurn) hmem he

/-- Settles O34. -/
theorem powerOnMeetsInvariant : Obligations.PowerOnMeetsInvariant :=
  ⟨rfl, ⟨by decide, fun _ => ⟨rfl, rfl, rfl⟩⟩, .inl ⟨rfl, rfl⟩, reset_mem_wf, by simp [State.reset]⟩

end Sys2Proof.Machine
end

section
/-!
PROOFS of the state family (10_state.md), the STATUS word: its bits, and when STATUS and RESULT_LEN change.
-/

namespace Sys2Proof.Machine

/-! ## When STATUS changes -/

/-- STATUS and RESULT_LEN read the same in both states. -/
def SameStatus (s t : State) : Prop := statusWord t = statusWord s ∧ t.resultLen = s.resultLen

theorem SameEngine.sameStatus {s t : State} (h : SameEngine s t) : SameStatus s t := by
  rw [h]
  exact ⟨rfl, rfl⟩

theorem writeReg_sameStatus {r : RegName} (hr : r ≠ .cmd) (s : State) (w : Word) : SameStatus s (s.writeReg w r) := by
  cases r with
  | cmd => exact absurd rfl hr
  | status | srcAddr | srcLen | dstAddr | dstCap | keyAddr | keyLen | resultLen => exact ⟨rfl, rfl⟩

/-- A host operation keeps STATUS and RESULT_LEN unless it is a start or a reset (R39). -/
theorem hostOp_sameStatus (s : State) (op : HostOp) :
    SameStatus s (s.hostOp op) ∨
      (s.busy = false ∧ ∃ w, op = .regWrite 4 0x000 w ∧ (s.hostOp op).cur = some w) ∨ op = .reset := by
  obtain h | ⟨hb, r, w, hop, h⟩ | ⟨-, a, b, -, -, h⟩ | ⟨hop, -⟩ := hostOp_cases s op
  · exact .inl h.sameStatus
  · by_cases hr : r = .cmd
    · subst hr
      exact .inr (.inl ⟨hb, w, hop, h ▸ rfl⟩)
    · exact .inl (h ▸ writeReg_sameStatus hr s w)
  · exact .inl (h ▸ ⟨rfl, rfl⟩)
  · exact .inr (.inr hop)

/-- Settles O38: of the host's operations only a start and a reset touch STATUS, and an engine's turn that does anything
completes a command. -/
theorem statusChangesOnlyAtStartCompletionReset : Obligations.StatusChangesOnlyAtStartCompletionReset := by
  intro s t h hchange
  have hne : ¬SameStatus s t := not_and_or.mpr hchange
  obtain ⟨-, rfl⟩ | ⟨-, ⟨ha, rfl⟩ | ⟨-, -, rfl⟩ | ⟨ha, hb, w, -, ⟨e, -, rfl⟩ | ⟨i, -, he⟩⟩⟩ := step_next h
  · exact absurd ⟨rfl, rfl⟩ hne
  · obtain ⟨-, ht⟩ | ⟨op, rest, hscript, ht⟩ := hostTurn_cases s.popTurn
    · rw [ht] at hne
      exact absurd ⟨rfl, rfl⟩ hne
    · rw [ht] at hne ⊢
      obtain hs | ⟨hb, w, rfl, hcur⟩ | rfl := hostOp_sameStatus { s.popTurn with script := rest } op
      · exact absurd hs hne
      · exact .inl ⟨ha, hb, w, rest, hscript, hcur⟩
      · exact .inr (.inl ⟨ha, rest, hscript⟩)
  · exact absurd ⟨rfl, rfl⟩ hne
  · exact .inr (.inr ⟨ha, hb, rfl, rfl⟩)
  · obtain ⟨t', ht', hbusy, hdone, -⟩ := exec_completes i s.popTurn
    cases he.symm.trans ht'
    exact .inr (.inr ⟨ha, hb, hbusy, hdone⟩)

/-! ## The STATUS word -/

/-- The bits of the STATUS word from its low end: each field in turn, shifted by the fields below it (R33). -/
theorem statusWord_getLsbD (s : State) (i : Nat) :
    (statusWord s).getLsbD i =
      if i = 0 then s.busy else if i = 1 then s.done
      else if 4 ≤ i ∧ i < 7 then s.err.getLsbD (i - 4) else if 8 ≤ i ∧ i < 16 then s.detail.getLsbD (i - 8) else false := by
  change BitVec.getLsbD (w := 16 + 8 + 1 + 3 + 2 + 1 + 1)
    (0#16 ++ s.detail ++ 0#1 ++ s.err ++ 0#2 ++ BitVec.ofBool s.done ++ BitVec.ofBool s.busy) i = _
  simp only [BitVec.getLsbD_append, BitVec.getLsbD_ofBool, BitVec.getLsbD_zero, Nat.sub_sub]
  grind

/-- Settles O12. -/
theorem statusWordBits : Obligations.StatusWordBits := by
  intro s
  refine ⟨?_, ?_, fun i hi => ?_, fun i hi => ?_, fun i hi => ?_⟩
  · rw [statusWord_getLsbD, if_pos rfl]
  · rw [statusWord_getLsbD, if_neg Nat.one_ne_zero, if_pos rfl]
  · rw [statusWord_getLsbD, if_neg (by omega), if_neg (by omega), if_pos (by omega), Nat.add_sub_cancel_left]
  · rw [statusWord_getLsbD, if_neg (by omega), if_neg (by omega), if_neg (by omega), if_pos (by omega),
      Nat.add_sub_cancel_left]
  · rw [statusWord_getLsbD, if_neg (by omega), if_neg (by omega), if_neg (by omega), if_neg (by omega)]

/-- In a legal state with BUSY = 1, STATUS reads BUSY and nothing else (R33). -/
theorem statusWord_of_busy {s : State} (hs : s.StatusLegal) (hb : s.busy = true) :
    statusWord s = 1#32 ∧ s.resultLen = 0#32 := by
  obtain ⟨hexcl, hzero⟩ := hs
  have hd : s.done = false := by simpa [hb] using hexcl
  obtain ⟨herr, hdetail, hlen⟩ := hzero hd
  refine ⟨?_, hlen⟩
  rw [statusWord, hb, hd, herr, hdetail]
  rfl

end Sys2Proof.Machine
end

section
/-!
PROOFS of the state family (10_state.md), the register port and the buffer port: what each access does, and power-on.
-/

namespace Sys2Proof.Machine

/-! ## The register port -/

/-- Settles O11. -/
theorem busyRegisterAccess : Obligations.BusyRegisterAccess := by
  intro s
  have hok {off : Nat} (ha : off % 4 = 0) (hlt : off < 0x1000) : regAccessOk 4 off = true :=
    (regAccessOk_iff 4 off).mpr ⟨rfl, ha, hlt⟩
  refine ⟨fun off ha hlt => hostRegRead_of_ok s (hok ha hlt), rfl, rfl, rfl, rfl, rfl, rfl, rfl, rfl, rfl,
    fun off => regValue_of_reserved s, fun hb off w ha hlt => hostRegWrite_of_busy w (hok ha hlt) hb, fun hs hb => ?_⟩
  obtain ⟨-, hstatus, -, -⟩ := hs
  exact statusWord_of_busy hstatus hb

/-- Settles O7. -/
theorem cmdWriteStartsCommand : Obligations.CmdWriteStartsCommand := fun s w =>
  ⟨hostRegWrite_offsetOf .cmd w, hostRegWrite_offsetOf_of_busy .cmd w, hostRegRead_offsetOf s .cmd⟩

/-- The configuration registers (R34). -/
def configRegs : List RegName := [.srcAddr, .srcLen, .dstAddr, .dstCap, .keyAddr, .keyLen]

/-- A configuration register holds the word written to it; the write answers the host nothing. -/
theorem writeReg_configRegs {r : RegName} (hr : r ∈ configRegs) (s : State) (w : Word) :
    (s.writeReg w r).readReg r = w ∧ (s.writeReg w r).responses = s.responses := by
  cases r with
  | cmd | status | resultLen => exact absurd hr (by decide)
  | srcAddr | srcLen | dstAddr | dstCap | keyAddr | keyLen => exact ⟨rfl, rfl⟩

/-- Settles O8. -/
theorem configurationRegistersStoreAllBits : Obligations.ConfigurationRegistersStoreAllBits := by
  intro s w hb
  refine ⟨hostRegWrite_offsetOf .srcAddr w hb, hostRegWrite_offsetOf .srcLen w hb, hostRegWrite_offsetOf .dstAddr w hb,
    hostRegWrite_offsetOf .dstCap w hb, hostRegWrite_offsetOf .keyAddr w hb, hostRegWrite_offsetOf .keyLen w hb,
    fun off hoff => ?_⟩
  change off ∈ configRegs.map offsetOf at hoff
  obtain ⟨r, hr, rfl⟩ := List.mem_map.mp hoff
  obtain ⟨hread, hresp⟩ := writeReg_configRegs hr s w
  refine ⟨?_, fun s' => hostRegWrite_offsetOf_of_busy r w⟩
  rw [hostRegWrite_offsetOf r w hb, hostRegRead_offsetOf, hread, State.respond, hresp]

/-- STATUS and RESULT_LEN ignore every write (R33, R35). -/
theorem hostRegWrite_of_readOnly {r : RegName} (hr : r = .status ∨ r = .resultLen) (s : State) (w : Word) :
    s.hostRegWrite 4 (offsetOf r) w = s := by
  obtain hb | hb := Bool.eq_false_or_eq_true s.busy
  · exact hostRegWrite_offsetOf_of_busy r w hb
  · rw [hostRegWrite_offsetOf r w hb]
    obtain rfl | rfl := hr <;> rfl

/-- Settles O9. -/
theorem readOnlyAndReservedOffsets : Obligations.ReadOnlyAndReservedOffsets := by
  intro s off w ha hlt
  have hok : regAccessOk 4 off = true := (regAccessOk_iff 4 off).mpr ⟨rfl, ha, hlt⟩
  refine ⟨fun hoff => ?_, fun hres => ?_⟩
  · obtain rfl | rfl | hres : off = offsetOf .status ∨ off = offsetOf .resultLen ∨ 0x024 ≤ off := by
      simp only [offsetOf]
      omega
    · exact hostRegWrite_of_readOnly (.inl rfl) s w
    · exact hostRegWrite_of_readOnly (.inr rfl) s w
    · exact hostRegWrite_of_regAt_none s w hok (regAt_eq_none_of_reserved hres)
  · rw [hostRegRead_of_ok s hok, regValue_of_reserved s hres, State.respond]

/-- Settles O10. -/
theorem badRegisterAccessRefused : Obligations.BadRegisterAccessRefused := by
  intro s size off w hbad
  have hok : ¬regAccessOk size off = true := by
    rw [regAccessOk_iff]
    omega
  exact ⟨hostRegWrite_of_not_ok s w hok, hostRegRead_of_not_ok s hok⟩

/-! ## The buffer port -/

/-- Settles O13. -/
theorem bufferWriteThenRead : Obligations.BufferWriteThenRead := by
  intro s a b ha hb
  have hcell : (s.mem.write a [b]).byteAt a = some b := byteAt_write_inside (k := 0) Nat.zero_lt_one
  refine ⟨_, hostBufWrite_of_idle b ha hb, rfl, hcell, fun x hx => ?_, ?_⟩
  · exact byteAt_write_outside (Nat.lt_or_gt_of_ne hx)
  · obtain ⟨hread, -⟩ := hostBufRead_of_idle (s := { s with mem := s.mem.write a [b] }) ha hb
    exact hread b hcell

/-- Settles O14. -/
theorem bufReadOfUndefinedCellFaults : Obligations.BufReadOfUndefinedCellFaults := by
  intro s a ha hb
  obtain ⟨hdefined, hundefined⟩ := hostBufRead_of_idle ha hb
  refine ⟨hdefined, fun hm hf => ?_, fun f hm hf => ?_⟩
  · rw [hundefined hm, State.markFault, hf, Option.none_or]
  · rw [hundefined hm, markFault_of_fault hf]

/-! ## Power-on -/

theorem reset_regValue (off : Nat) : State.reset.regValue off = 0#32 := by
  cases hr : regAt off with
  | none => rw [State.regValue, hr]
  | some r =>
    obtain rfl := (regAt_eq_some_iff off r).mp hr
    rw [regValue_offsetOf]
    cases r <;> rfl

/-- Settles O33. -/
theorem powerOnState : Obligations.PowerOnState :=
  ⟨reset_regValue, rfl, rfl, byteAt_nil, ⟨rfl, rfl⟩, rfl⟩

end Sys2Proof.Machine
end

section
/-!
PROOFS of the memory family (20_memory.md): what the buffer port refuses, which operation the host's turn issues, and when a
cell of buffer memory changes.
-/

namespace Sys2Proof.Machine

/-! ## Buffer accesses that are refused or come while BUSY = 1 -/

theorem hostBufRead_of_outside {s : State} {a : Nat} (ha : s.config.bufSize ≤ a) : s.hostBufRead a = s.markRefused :=
  if_pos ha

theorem hostBufWrite_of_outside {s : State} {a : Nat} (b : Byte) (ha : s.config.bufSize ≤ a) :
    s.hostBufWrite a b = s.markRefused := if_pos ha

theorem hostBufRead_of_busy {s : State} {a : Nat} (ha : a < s.config.bufSize) (hb : s.busy = true) :
    s.hostBufRead a = s.markFault (.hostAccessWhileBusy a) := by
  rw [State.hostBufRead, if_neg (Nat.not_le.mpr ha), if_pos hb]

theorem hostBufWrite_of_busy {s : State} {a : Nat} (b : Byte) (ha : a < s.config.bufSize) (hb : s.busy = true) :
    s.hostBufWrite a b = s.markFault (.hostAccessWhileBusy a) := by
  rw [State.hostBufWrite, if_neg (Nat.not_le.mpr ha), if_pos hb]

theorem markFault_of_none {s : State} (h : s.fault = none) (f : Fault) : s.markFault f = { s with fault := some f } := by
  rw [State.markFault, h, Option.none_or]

/-- Settles O15. -/
theorem bufferAccessRefusedOrBusy : Obligations.BufferAccessRefusedOrBusy := by
  intro s a b
  refine ⟨fun ha => ⟨hostBufRead_of_outside ha, hostBufWrite_of_outside b ha⟩, fun ha hb hf => ?_, fun f ha hb hf => ?_⟩
  · rw [hostBufRead_of_busy ha hb, hostBufWrite_of_busy b ha hb, markFault_of_none hf]
    exact ⟨rfl, rfl⟩
  · rw [hostBufRead_of_busy ha hb, hostBufWrite_of_busy b ha hb, markFault_of_fault hf]
    exact ⟨rfl, rfl⟩

/-! ## The host's turn -/

theorem step_of_host {s : State} (hw : s.config.wf = true) (ha : s.nextAgent = .host) :
    step s = .next s.popTurn.hostTurn := by
  rw [step, if_pos hw, ha]

theorem hostTurn_of_cons {s : State} {op : HostOp} {rest : List HostOp} (h : s.script = op :: rest) :
    s.hostTurn = State.hostOp { s with script := rest } op := by
  rw [State.hostTurn, h]

theorem hostTurn_of_nil {s : State} (h : s.script = []) : s.hostTurn = s := by
  rw [State.hostTurn, h]

/-- Settles O4. -/
theorem hostStepIssuesNextOperation : Obligations.HostStepIssuesNextOperation := by
  refine ⟨fun s size off a w b => ⟨rfl, rfl, rfl, rfl⟩, fun s hw ha => ⟨fun op rest hs => ?_, fun hs => ?_⟩⟩
  · rw [step_of_host hw ha, hostTurn_of_cons (s := s.popTurn) hs]
  · rw [step_of_host hw ha, hostTurn_of_nil (s := s.popTurn) hs]

/-! ## When a cell of buffer memory changes -/

theorem SameEngine.mem_eq {s t : State} (h : SameEngine s t) : t.mem = s.mem := by
  rw [h]

@[simp] theorem writeReg_mem (s : State) (w : Word) (r : RegName) : (s.writeReg w r).mem = s.mem := by
  cases r <;> rfl

theorem Completed.unchangedOutside {s t : State} (h : Completed s t) :
    UnchangedOutside s t s.dstAddr.toNat s.dstCap.toNat := by
  obtain ⟨-, -, -, -, -, -, hmem⟩ := h
  exact hmem

theorem commitError_unchangedOutside (s : State) (d : Detail) :
    UnchangedOutside s (s.commitError d) s.dstAddr.toNat s.dstCap.toNat :=
  (commitError_spec s d).1.unchangedOutside

theorem commitOk_unchangedOutside {s : State} {out : Bytes} (h : out.length ≤ s.dstCap.toNat) :
    UnchangedOutside s (s.commitOk out) s.dstAddr.toNat s.dstCap.toNat :=
  (commitOk_spec h).1.unchangedOutside

/-- A command's completion, one of an undefined fetch included, writes nothing outside the DST region (R138). -/
theorem exec_unchangedOutside {i : Instr} {s t : State} (h : exec i s = .next t) :
    UnchangedOutside s t s.dstAddr.toNat s.dstCap.toNat := by
  obtain ⟨d, he⟩ | ⟨-, out, hl, he⟩ | ⟨-, a, -, he⟩ := exec_cases i s <;> cases h.symm.trans he
  · exact commitError_unchangedOutside s d
  · exact commitOk_unchangedOutside hl
  · obtain ⟨d, hu⟩ | ⟨out, hl, hu⟩ := commitUndefined_cases s a <;> rw [hu]
    · exact commitError_unchangedOutside (s.markFault (.undefinedRead a)).countDraw d
    · exact commitOk_unchangedOutside (s := (s.markFault (.undefinedRead a)).countDraw) hl

/-- A reset touches a cell only in the DST region of a command in progress (R342, R343). -/
theorem byteAt_memAfterReset (s : State) (a : Nat) :
    s.memAfterReset.byteAt a =
      if s.busy = true ∧ s.dstAddr.toNat ≤ a ∧ a < s.dstAddr.toNat + s.dstCap.toNat then none else s.mem.byteAt a := by
  rw [State.memAfterReset, ite_and, ← byteAt_undefine]
  split <;> rfl

/-- What a host operation does to a cell: nothing, unless it is a carried BufWrite to it or a reset of a busy engine whose
DST region holds it (R78). -/
theorem hostOp_byteAt_cases (s : State) (op : HostOp) (a : Nat) :
    (s.hostOp op).mem.byteAt a = s.mem.byteAt a ∨
      (s.busy = false ∧ a < s.config.bufSize ∧ ∃ b, op = .bufWrite a b ∧ (s.hostOp op).mem.byteAt a = some b) ∨
      (op = .reset ∧ s.busy = true ∧ s.dstAddr.toNat ≤ a ∧ a < s.dstAddr.toNat + s.dstCap.toNat) := by
  obtain h | ⟨-, r, w, -, h⟩ | ⟨hb, x, b, rfl, hx, h⟩ | ⟨rfl, h⟩ := hostOp_cases s op
  · exact .inl (by rw [h.mem_eq])
  · exact .inl (by rw [h, writeReg_mem])
  · rw [h]
    by_cases hxa : a = x
    · subst hxa
      exact .inr (.inl ⟨hb, hx, b, rfl, byteAt_write_inside (k := 0) Nat.zero_lt_one⟩)
    · exact .inl (byteAt_write_outside (Nat.lt_or_gt_of_ne hxa))
  · rw [h, State.applyReset_mem, byteAt_memAfterReset]
    split
    · next hdst => exact .inr (.inr ⟨rfl, hdst⟩)
    · exact .inl rfl

/-- A cell that reads differently, where nothing outside the DST region changed, lies in it. -/
theorem UnchangedOutside.in_range_of_ne {s t : State} {base n a : Nat} (h : UnchangedOutside s t base n)
    (hne : t.mem.byteAt a ≠ s.mem.byteAt a) : base ≤ a ∧ a < base + n := by
  by_contra hout
  exact hne (h a (by omega))

/-- Settles O39: a host operation changes a cell only as `hostOp_byteAt_cases` says, and a completion only inside the DST
region. -/
theorem memoryChangesOnlyByWriteCompletionReset : Obligations.MemoryChangesOnlyByWriteCompletionReset := by
  intro s t a h hne
  obtain ⟨-, rfl⟩ | ⟨-, ⟨ha, rfl⟩ | ⟨-, -, rfl⟩ | ⟨ha, hb, w, -, ⟨e, -, rfl⟩ | ⟨i, -, he⟩⟩⟩ := step_next h
  · exact absurd rfl hne
  · obtain ⟨-, ht⟩ | ⟨op, rest, hscript, ht⟩ := hostTurn_cases s.popTurn <;> rw [ht] at hne ⊢
    · exact absurd rfl hne
    · obtain hsame | ⟨hb, hlt, b, rfl, hcell⟩ | ⟨rfl, hb, hlo, hhi⟩ :=
        hostOp_byteAt_cases { s.popTurn with script := rest } op a
      · exact absurd hsame hne
      · exact .inl ⟨ha, hb, hlt, b, rest, hscript, hcell⟩
      · exact .inr ⟨hb, hlo, hhi, .inr ⟨ha, rest, hscript⟩⟩
  · exact absurd rfl hne
  · obtain ⟨hlo, hhi⟩ := (commitError_unchangedOutside s.popTurn (illegalWordDetail e)).in_range_of_ne hne
    exact .inr ⟨hb, hlo, hhi, .inl ha⟩
  · obtain ⟨hlo, hhi⟩ := (exec_unchangedOutside he).in_range_of_ne hne
    exact .inr ⟨hb, hlo, hhi, .inl ha⟩

end Sys2Proof.Machine
end

section
/-!
PROOFS of the encoding family (30_encoding.md): the decoder against the encoder, what an illegal word does, the operands a
codec command does not read, and one round of `wait`.
-/

namespace Sys2Proof.Machine

/-! ## The fields of a command word -/

theorem opField_toNat (w : Word) : (opField w).toNat = w.toNat % 256 := by
  rw [opField, BitVec.extractLsb'_toNat, Nat.shiftRight_zero]

theorem rsvdField_toNat (w : Word) : (rsvdField w).toNat = w.toNat / 256 := by
  have hw : w.toNat < 2 ^ 32 := w.isLt
  rw [rsvdField, BitVec.extractLsb'_toNat, Nat.shiftRight_eq_div_pow]
  omega

/-- RSVD and OP are the whole word (R100). -/
theorem word_eq_iff (v w : Word) : v = w ↔ opField v = opField w ∧ rsvdField v = rsvdField w := by
  simp only [← BitVec.toNat_inj, opField_toNat, rsvdField_toNat]
  omega

theorem opField_encode (i : Instr) : opField (encode i) = opcodeOf i := by
  cases i <;> rfl

theorem rsvdField_encode (i : Instr) : rsvdField (encode i) = 0#24 := by
  cases i <;> rfl

/-! ## The decoder -/

/-- The opcode map is the inverse of `opcodeOf` (R101). -/
theorem decodeOp_eq_some_iff (op : BitVec 8) (i : Instr) : decodeOp op = some i ↔ op = opcodeOf i := by
  constructor
  · intro h
    unfold decodeOp at h
    repeat' split at h
    all_goals cases h
    all_goals assumption
  · rintro rfl
    cases i <;> rfl

theorem decodeOp_eq_none_iff (op : BitVec 8) : decodeOp op = none ↔ op.toNat = 0 ∨ 6 < op.toNat := by
  simp only [decodeOp, ← BitVec.toNat_inj, BitVec.toNat_ofNat]
  repeat' split
  all_goals simp only [reduceCtorEq, false_iff, true_iff]
  all_goals omega

/-- The opcode is checked first: it alone decides this error (R102). -/
theorem decode_eq_unknownOpcode_iff (w : Word) :
    decode w = .error .unknownOpcode ↔ w.toNat % 256 = 0 ∨ 6 < w.toNat % 256 := by
  rw [← opField_toNat, ← decodeOp_eq_none_iff, decode]
  cases decodeOp (opField w) with
  | none => simp
  | some i => by_cases hr : rsvdField w = 0#24 <;> simp [hr]

/-- The reserved bits are checked second, under a valid opcode (R102). -/
theorem decode_eq_reservedBits_iff (w : Word) :
    decode w = .error .reservedBits ↔ 1 ≤ w.toNat % 256 ∧ w.toNat % 256 ≤ 6 ∧ w.toNat / 256 ≠ 0 := by
  have hop : decodeOp (opField w) ≠ none ∧ rsvdField w ≠ 0#24 ↔
      1 ≤ w.toNat % 256 ∧ w.toNat % 256 ≤ 6 ∧ w.toNat / 256 ≠ 0 := by
    rw [Ne, decodeOp_eq_none_iff, Ne, ← BitVec.toNat_inj, opField_toNat, rsvdField_toNat, BitVec.toNat_ofNat]
    omega
  rw [← hop, decode]
  cases decodeOp (opField w) with
  | none => simp
  | some i => by_cases hr : rsvdField w = 0#24 <;> simp [hr]

/-- Decoding inverts encoding, on every word (R102). -/
theorem decode_eq_ok_iff (w : Word) (i : Instr) : decode w = .ok i ↔ w = encode i := by
  rw [word_eq_iff, opField_encode, rsvdField_encode, ← decodeOp_eq_some_iff, decode]
  cases decodeOp (opField w) with
  | none => simp
  | some j => by_cases hr : rsvdField w = 0#24 <;> simp [hr]

theorem encode_bounds (i : Instr) : 1 ≤ (encode i).toNat ∧ (encode i).toNat ≤ 6 := by
  cases i <;> decide

/-- A word from 1 to 6 has neither of the decoder's errors, and no other word is an encoding. -/
theorem exists_decode_eq_ok_iff (w : Word) : (∃ i, decode w = .ok i) ↔ 1 ≤ w.toNat ∧ w.toNat ≤ 6 := by
  constructor
  · rintro ⟨i, h⟩
    rw [(decode_eq_ok_iff w i).mp h]
    exact encode_bounds i
  · rintro ⟨hlo, hhi⟩
    cases h : decode w with
    | ok i => exact ⟨i, rfl⟩
    | error e =>
      cases e with
      | unknownOpcode =>
        rw [decode_eq_unknownOpcode_iff] at h
        omega
      | reservedBits =>
        rw [decode_eq_reservedBits_iff] at h
        omega

/-- Settles O2. -/
theorem decodeExactlyEncodedWords : Obligations.DecodeExactlyEncodedWords :=
  ⟨fun w i _ => decode_eq_ok_iff w i, exists_decode_eq_ok_iff, decode_eq_unknownOpcode_iff, decode_eq_reservedBits_iff,
    rfl, rfl, rfl, rfl, rfl, rfl⟩

/-- Settles O1. -/
theorem listedWordsDecode : Obligations.ListedWordsDecode := by
  simp only [Obligations.ListedWordsDecode, decode_eq_ok_iff, decode_eq_unknownOpcode_iff, decode_eq_reservedBits_iff]
  decide

/-! ## The engine's turn with a command word -/

theorem step_of_engine {s : State} {w : Word} (hw : s.config.wf = true) (ha : s.nextAgent = .engine)
    (hb : s.busy = true) (hc : s.cur = some w) : step s = completeWord w s.popTurn := by
  rw [step, if_pos hw, ha]
  change engineTurn s.popTurn = _
  rw [engineTurn, if_pos (show s.popTurn.busy = true from hb), show s.popTurn.cur = some w from hc]

theorem completeWord_of_error {w : Word} {e : DecodeError} (h : decode w = .error e) (s : State) :
    completeWord w s = .next (s.commitError (illegalWordDetail e)) := by
  rw [completeWord, h]

/-- Settles O5: an illegal word's cause is an ARGUMENT error, which leaves buffer memory as it was. -/
theorem illegalWordReportsArgumentError : Obligations.IllegalWordReportsArgumentError := by
  intro s w hw ha hb hc
  rw [step_of_engine hw ha hb hc]
  refine ⟨fun hop => ?_, fun hrsvd => ?_⟩
  · rw [completeWord_of_error ((decode_eq_unknownOpcode_iff w).mpr hop)]
    rfl
  · rw [completeWord_of_error ((decode_eq_reservedBits_iff w).mpr hrsvd)]
    rfl

/-! ## The KEY registers of a codec command -/

/-- The state with other values in KEY_ADDR and KEY_LEN. -/
def State.withKey (s : State) (x y : Word) : State := { s with keyAddr := x, keyLen := y }

theorem withKey_precheck (s : State) (x y : Word) : (s.withKey x y).precheck false = s.precheck false := rfl

theorem withKey_fetchSrc (s : State) (x y : Word) : (s.withKey x y).fetchSrc = s.fetchSrc := rfl

theorem withKey_commit (s : State) (x y : Word) (r : TransformResult) :
    (s.withKey x y).commit r = (s.commit r).withKey x y := by
  cases r <;> rfl

theorem withKey_commitUndefined (s : State) (x y : Word) (a : Nat) :
    (s.withKey x y).commitUndefined a = (s.commitUndefined a).withKey x y :=
  withKey_commit ((s.markFault (.undefinedRead a)).countDraw) x y _

/-- A codec command's course neither reads nor changes the KEY registers (R104). -/
theorem runCodec_withKey (T : Bytes → TransformResult) (s : State) (x y : Word) :
    ∃ t, runCodec T s = .next t ∧ runCodec T (s.withKey x y) = .next (t.withKey x y) := by
  simp only [runCodec, withKey_precheck, withKey_fetchSrc, withKey_commit, withKey_commitUndefined]
  cases s.precheck false with
  | some d => exact ⟨_, rfl, rfl⟩
  | none =>
    cases s.fetchSrc with
    | error a => exact ⟨_, rfl, rfl⟩
    | ok src => exact ⟨_, rfl, rfl⟩

theorem exec_of_codec {i : Instr} (hi : isKeyed i = false) : ∃ T, ∀ s, exec i s = runCodec T s := by
  cases i with
  | feiEnc | feiDec => cases hi
  | lzwComp => exact ⟨lzwCompress, fun _ => rfl⟩
  | lzwDecomp => exact ⟨lzwDecompress, fun _ => rfl⟩
  | huffComp => exact ⟨huffCompress, fun _ => rfl⟩
  | huffDecomp => exact ⟨huffDecompress, fun _ => rfl⟩

/-- Settles O30. -/
theorem codecsIgnoreKeyRegisters : Obligations.CodecsIgnoreKeyRegisters := by
  intro i s x y hi
  obtain ⟨T, hT⟩ := exec_of_codec hi
  rw [hT, hT]
  exact runCodec_withKey T s x y

/-! ## The polling loop -/

/-- Settles O16: bit 0 of the word read is BUSY. -/
theorem waitPollsUntilIdle : Obligations.WaitPollsUntilIdle := by
  intro s
  obtain ⟨hbusy, -⟩ := statusWordBits s
  rw [hbusy]
  exact hostWait_eq s

end Sys2Proof.Machine
end

section
/-!
PROOFS of the command-cycle family (40_command_cycle.md), the checks after decoding: which one is reported, and that the
report is an ARGUMENT error.
-/

namespace Sys2Proof.Machine

/-! ## Ranges in exact naturals -/

theorem Region.inRange_iff (r : Region) (n : Nat) : r.inRange n = true ↔ r.base + r.len ≤ n :=
  Nat.ble_eq.to_iff

theorem Region.overlaps_iff (r q : Region) :
    r.overlaps q = true ↔ 0 < r.len ∧ 0 < q.len ∧ r.base < q.base + q.len ∧ q.base < r.base + r.len := by
  simp only [Region.overlaps, Bool.and_eq_true, decide_eq_true_eq, and_assoc]

/-! ## The check that is reported -/

/-- Settles O17: once its conditions are read in naturals, each clause decides the checks up to the one it names. -/
theorem precheckReportsFirstFailure : Obligations.PrecheckReportsFirstFailure := by
  intro s keyed n srcOk dstOk keyOk srcMeets keyMeets
  have hcheck : s.precheck keyed =
      if srcOk then
        if dstOk then
          if keyOk then if srcMeets then some .overlapSrcDst else if keyMeets then some .overlapKeyDst else none
          else some .keyRange
        else some .dstRange
      else some .srcRange := by
    simp only [State.precheck, Bool.not_eq_true', ← Bool.not_eq_true, Bool.and_eq_true, Region.inRange_iff,
      Region.overlaps_iff, ← Classical.not_imp, ite_not]
    rfl
  rw [hcheck]
  refine ⟨fun h1 => ?_, fun h1 h2 => ?_, fun h1 h2 h3 => ?_, fun h1 h2 h3 h4 => ?_, fun h1 h2 h3 h4 h5 => ?_,
    fun h1 h2 h3 h4 h5 => ?_⟩
  · rw [if_neg h1]
  · rw [if_pos h1, if_neg h2]
  · rw [if_pos h1, if_pos h2, if_neg h3]
  · rw [if_pos h1, if_pos h2, if_pos h3, if_pos h4]
  · rw [if_pos h1, if_pos h2, if_pos h3, if_neg h4, if_pos h5]
  · rw [if_pos h1, if_pos h2, if_pos h3, if_neg h4, if_neg h5]

/-- Every cause a check reports is an ARGUMENT error (R133). -/
theorem precheck_argument {s : State} {keyed : Bool} {d : Detail} (h : s.precheck keyed = some d) :
    kindOf d = .argument := by
  unfold State.precheck at h
  repeat' split at h
  all_goals cases h
  all_goals rfl

/-- The checks read the regions and BUF_SIZE alone. -/
theorem precheck_congr {s s' : State} (hops : SameOperands s s') (hcfg : s'.config = s.config) (keyed : Bool) :
    s'.precheck keyed = s.precheck keyed := by
  obtain ⟨hsa, hsl, hda, hdc, hka, hkl⟩ := hops
  have hsrc : s'.srcRegion = s.srcRegion := by rw [State.srcRegion, hsa, hsl, State.srcRegion]
  have hdst : s'.dstRegion = s.dstRegion := by rw [State.dstRegion, hda, hdc, State.dstRegion]
  have hkey : s'.keyRegion = s.keyRegion := by rw [State.keyRegion, hka, hkl, State.keyRegion]
  rw [State.precheck, hsrc, hdst, hkey, hcfg, State.precheck]

end Sys2Proof.Machine
end

section
/-!
PROOFS of the command-cycle family (40_command_cycle.md), the course of a command, said once for all six: a failed check,
an undefined fetch, or the commit of the transform's outcome on the bytes fetched.
-/

namespace Sys2Proof.Machine

/-! ## The six commands as one -/

/-- The transform of a command on what it fetched (R134); a codec command uses neither `keylen` nor `key8`. -/
def transformOf (i : Instr) (c : Config) (src : Bytes) (keylen : Nat) (key8 : Bytes) : TransformResult :=
  match i with
  | .feiEnc => feiEncrypt c src keylen key8
  | .feiDec => feiDecrypt c src keylen key8
  | .lzwComp => lzwCompress src
  | .lzwDecomp => lzwDecompress src
  | .huffComp => huffCompress src
  | .huffDecomp => huffDecompress src

/-- What a command fetches, `src` and `key8` (R135); a codec command's `key8` is empty. -/
def State.fetchFor (s : State) (i : Instr) : Except Nat (Bytes × Bytes) :=
  if isKeyed i then s.fetchKeyed else s.fetchSrc.map (fun src => (src, []))

theorem fetchFor_of_keyed {i : Instr} (hi : isKeyed i = true) (s : State) : s.fetchFor i = s.fetchKeyed := if_pos hi

theorem fetchFor_of_codec {i : Instr} (hi : isKeyed i = false) (s : State) :
    s.fetchFor i = s.fetchSrc.map (fun src => (src, [])) := if_neg (by simp [hi])

theorem exec_of_keyed {i : Instr} (hi : isKeyed i = true) (s : State) :
    exec i s = runKeyed (transformOf i s.config) s := by
  cases i with
  | feiEnc | feiDec => rfl
  | lzwComp | lzwDecomp | huffComp | huffDecomp => cases hi

/-- A codec command's transform, at any key. -/
theorem exec_of_codec_transformOf {i : Instr} (hi : isKeyed i = false) (s : State) (keylen : Nat) (key8 : Bytes) :
    exec i s = runCodec (fun src => transformOf i s.config src keylen key8) s := by
  cases i with
  | feiEnc | feiDec => cases hi
  | lzwComp | lzwDecomp | huffComp | huffDecomp => rfl

/-! ## The three courses of a command -/

theorem exec_of_failed_check {i : Instr} {s : State} {d : Detail} (h : s.precheck (isKeyed i) = some d) :
    exec i s = .next (s.commitError d) := by
  cases hi : isKeyed i <;> rw [hi] at h
  · rw [exec_of_codec_transformOf hi s 0 [], runCodec, h]
  · rw [exec_of_keyed hi, runKeyed, h]

theorem exec_of_undefined_fetch {i : Instr} {s : State} {a : Nat} (h : s.precheck (isKeyed i) = none)
    (hf : s.fetchFor i = .error a) : exec i s = .next (s.commitUndefined a) := by
  cases hi : isKeyed i <;> rw [hi] at h
  · rw [fetchFor_of_codec hi] at hf
    rw [exec_of_codec_transformOf hi s 0 [], runCodec, h]
    cases hs : s.fetchSrc <;> rw [hs] at hf <;> cases hf
    rfl
  · rw [fetchFor_of_keyed hi] at hf
    rw [exec_of_keyed hi, runKeyed, h, hf]

theorem exec_of_fetch {i : Instr} {s : State} {src key8 : Bytes} (h : s.precheck (isKeyed i) = none)
    (hf : s.fetchFor i = .ok (src, key8)) :
    exec i s = .next (s.commit (capacityCheck s.dstCap.toNat (transformOf i s.config src s.keyLen.toNat key8))) := by
  cases hi : isKeyed i <;> rw [hi] at h
  · rw [fetchFor_of_codec hi] at hf
    rw [exec_of_codec_transformOf hi s s.keyLen.toNat key8, runCodec, h]
    cases hs : s.fetchSrc <;> rw [hs] at hf <;> cases hf
    rfl
  · rw [fetchFor_of_keyed hi] at hf
    rw [exec_of_keyed hi, runKeyed, h, hf]

/-! ## The fetch and the cells a command reads -/

theorem fetchFor_error {i : Instr} {s : State} {a : Nat} (h : s.fetchFor i = .error a) : LowestUndefined i s a := by
  cases hi : isKeyed i
  · rw [fetchFor_of_codec hi] at h
    cases hs : s.fetchSrc <;> rw [hs] at h <;> cases h
    exact fetchSrc_error hi hs
  · rw [fetchFor_of_keyed hi] at h
    exact fetchKeyed_error hi h

theorem fetchFor_of_defined {i : Instr} {s : State} (h : ∀ a, ReadsCell i s a → s.mem.byteAt a ≠ none) :
    ∃ src key8, s.fetchFor i = .ok (src, key8) := by
  cases hf : s.fetchFor i with
  | ok p => exact ⟨p.1, p.2, rfl⟩
  | error a =>
    obtain ⟨hreads, hundef, -⟩ := fetchFor_error hf
    exact absurd hundef (h a hreads)

theorem read_ok_defined {m : Memory} {a n x : Nat} {s : Bytes} (h : m.read a n = .ok s) (hlo : a ≤ x) (hhi : x < a + n) :
    m.byteAt x ≠ none := by
  obtain ⟨hlen, hbytes⟩ := read_ok h
  obtain ⟨k, rfl⟩ := Nat.exists_eq_add_of_le hlo
  rw [hbytes k (by omega), List.getElem?_eq_getElem (by omega)]
  exact Option.some_ne_none _

theorem fetchFor_ok_defined {i : Instr} {s : State} {src key8 : Bytes} (h : s.fetchFor i = .ok (src, key8)) {a : Nat}
    (ha : ReadsCell i s a) : s.mem.byteAt a ≠ none := by
  cases hi : isKeyed i
  · rw [fetchFor_of_codec hi] at h
    cases hs : s.fetchSrc <;> rw [hs] at h <;> cases h
    obtain ⟨hlo, hhi⟩ | ⟨hk, -⟩ := ha
    · exact read_ok_defined hs hlo hhi
    · cases hi.symm.trans hk
  · rw [fetchFor_of_keyed hi] at h
    obtain ⟨hs, hk⟩ := fetchKeyed_ok h
    obtain ⟨hlo, hhi⟩ | ⟨-, hlo, hhi⟩ := ha
    · exact read_ok_defined hs hlo hhi
    · exact read_ok_defined hk hlo hhi

theorem LowestUndefined.eq {i : Instr} {s : State} {a b : Nat} (ha : LowestUndefined i s a)
    (hb : LowestUndefined i s b) : a = b := by
  obtain ⟨hareads, haundef, halow⟩ := ha
  obtain ⟨hbreads, hbundef, hblow⟩ := hb
  obtain hlt | heq | hlt := Nat.lt_trichotomy a b
  · exact absurd haundef (hblow a hlt hareads)
  · exact heq
  · exact absurd hbundef (halow b hlt hbreads)

/-- The fetch fails exactly at the lowest undefined cell the command reads (R135). -/
theorem fetchFor_of_lowestUndefined {i : Instr} {s : State} {a : Nat} (h : LowestUndefined i s a) :
    s.fetchFor i = .error a := by
  cases hf : s.fetchFor i with
  | ok p =>
    obtain ⟨hreads, hundef, -⟩ := h
    exact absurd hundef (fetchFor_ok_defined hf hreads)
  | error b => rw [h.eq (fetchFor_error hf)]

/-- The fetch looks at no other cell than those the command reads. -/
theorem fetchFor_congr {i : Instr} {s s' : State} (hops : SameOperands s s')
    (h : ∀ a, ReadsCell i s a → s'.mem.byteAt a = s.mem.byteAt a) : s'.fetchFor i = s.fetchFor i := by
  obtain ⟨hsa, hsl, -, -, hka, hkl⟩ := hops
  have hsrc : s'.fetchSrc = s.fetchSrc := by
    rw [State.fetchSrc, hsa, hsl]
    exact read_congr fun a hlo hhi => h a (.inl ⟨hlo, hhi⟩)
  cases hi : isKeyed i
  · rw [fetchFor_of_codec hi, fetchFor_of_codec hi, hsrc]
  · have hkey : s'.fetchKey = s.fetchKey := by
      rw [State.fetchKey, hka, hkl]
      exact read_congr fun a hlo hhi => h a (.inr ⟨hi, hlo, hhi⟩)
    rw [fetchFor_of_keyed hi, fetchFor_of_keyed hi, State.fetchKeyed, State.fetchKeyed, hsrc, hkey]

/-! ## What the state is after a command -/

/-- The state a completion is committed in: an undefined fetch has set the fault mark and counted a draw. -/
def State.withFetchMarks (s : State) (f : Option Fault) (n : Nat) : State := { s with fault := f, draws := n }

/-- Everything a command's next state can be: an error, or an output that fits, committed in the state with the marks its
fetch left, which are the old ones when it meets no undefined cell (R135 to R137). -/
theorem exec_next {i : Instr} {s t : State} (h : exec i s = .next t) :
    ∃ f n, (FetchesDefined i s → f = s.fault ∧ n = s.draws) ∧
      ((∃ d, t = (s.withFetchMarks f n).commitError d) ∨
        ∃ out, out.length ≤ s.dstCap.toNat ∧ t = (s.withFetchMarks f n).commitOk out) := by
  obtain ⟨d, he⟩ | ⟨-, out, hl, he⟩ | ⟨hp, a, ⟨hreads, hundef, -⟩, he⟩ := exec_cases i s <;> cases h.symm.trans he
  · exact ⟨s.fault, s.draws, fun _ => ⟨rfl, rfl⟩, .inl ⟨d, rfl⟩⟩
  · exact ⟨s.fault, s.draws, fun _ => ⟨rfl, rfl⟩, .inr ⟨out, hl, rfl⟩⟩
  · exact ⟨_, _, fun hdef => absurd hundef (hdef hp a hreads), commitUndefined_cases s a⟩

end Sys2Proof.Machine
end

section
/-!
PROOFS of the command-cycle family (40_command_cycle.md): the outcome of a failed check and of an undefined fetch, what a
completion changes and keeps, what it depends on, and that there always is one.
-/

namespace Sys2Proof.Machine

/-! ## A failed check and an undefined fetch -/

/-- Settles O18. -/
theorem failedCheckCompletesWithArgumentError : Obligations.FailedCheckCompletesWithArgumentError := by
  intro i s d h
  have hd := precheck_argument h
  rw [exec_of_failed_check h, State.commitError, State.memAfterError, hd]
  rfl

theorem exec_resultLen_le {i : Instr} {s t : State} (h : exec i s = .next t) :
    t.resultLen.toNat ≤ s.dstCap.toNat := by
  obtain ⟨f, n, -, ⟨d, rfl⟩ | ⟨out, hl, rfl⟩⟩ := exec_next h
  · exact Nat.zero_le _
  · obtain ⟨-, -, -, hlen, -⟩ := commitOk_spec (s := s.withFetchMarks f n) hl
    rwa [hlen]

theorem not_goodFinal_of_fault {s : State} (h : s.fault ≠ none) : ¬s.GoodFinal :=
  fun ⟨_, ⟨_, hfault⟩, _⟩ => h hfault

/-- Settles O19: the fetch fails at the lowest undefined cell, and the completion that follows commits in a marked state. -/
theorem undefinedFetchFaultsAtLowestAddress : Obligations.UndefinedFetchFaultsAtLowestAddress := by
  intro i s a hp ha
  have he := exec_of_undefined_fetch hp (fetchFor_of_lowestUndefined ha)
  refine ⟨_, he, fun hf => ?_, fun f hf => ?_, s.commitUndefined_refused a, s.commitUndefined_busy a,
    s.commitUndefined_done a, s.commitUndefined_cur a, exec_resultLen_le he, ?_, exec_unchangedOutside he,
    not_goodFinal_of_fault ?_⟩
  · rw [State.commitUndefined_fault, hf, Option.none_or]
  · rw [State.commitUndefined_fault, hf, Option.some_or]
  · simp [SameOperands]
  · simp

/-! ## What a completion changes -/

/-- Settles O26: a commit sets STATUS, RESULT_LEN, `cur` and buffer memory alone. -/
theorem commandFrame : Obligations.CommandFrame := by
  intro i s t h
  have hmem := exec_unchangedOutside h
  obtain ⟨f, n, hmarks, ⟨d, rfl⟩ | ⟨out, -, rfl⟩⟩ := exec_next h
  · exact ⟨rfl, hmarks, hmem⟩
  · exact ⟨rfl, hmarks, hmem⟩

theorem errCode_ne_zero (k : ErrKind) : errCode k ≠ 0#3 := by
  cases k <;> decide

theorem errCode_eq_one_iff (k : ErrKind) : errCode k = 1#3 ↔ k = .argument := by
  cases k <;> decide

/-- Settles O27: ERR tells a success, an ARGUMENT error and any other error apart. -/
theorem successAndErrorFrames : Obligations.SuccessAndErrorFrames := by
  intro i s t h
  have hlen := exec_resultLen_le h
  obtain ⟨f, n, -, ⟨d, rfl⟩ | ⟨out, hl, rfl⟩⟩ := exec_next h
  · obtain ⟨-, herr, -, hzero, hargument, hother⟩ := commitError_spec (s.withFetchMarks f n) d
    simp only [herr, Ne, errCode_eq_one_iff]
    exact ⟨fun h0 => absurd h0 (errCode_ne_zero _), fun h1 => ⟨hzero, hargument h1⟩, fun _ h1 => ⟨hzero, hother h1⟩⟩
  · obtain ⟨-, herr, hdetail, hout, -, hmem⟩ := commitOk_spec (s := s.withFetchMarks f n) hl
    rw [herr, hout]
    exact ⟨fun _ => ⟨hdetail, hl, hmem⟩, fun h1 => absurd h1 (by decide), fun h0 => absurd rfl h0⟩

/-- Settles O28: after a failed check buffer memory is unchanged, and past the checks the inputs lie outside the DST
region. -/
theorem commandsKeepTheirInputs : Obligations.CommandsKeepTheirInputs := by
  intro i s t h
  cases hp : s.precheck (isKeyed i) with
  | some d =>
    have hmem : t.mem = s.mem := by
      rw [failedCheckCompletesWithArgumentError i s d hp] at h
      cases h
      rfl
    rw [hmem]
    exact ⟨fun _ _ _ => rfl, fun _ _ _ _ => rfl⟩
  | none =>
    obtain ⟨-, -, -, hsrc, hkey⟩ := precheck_none hp
    have hmem := exec_unchangedOutside h
    exact ⟨fun a hlo hhi => hmem a (not_overlaps_disjoint hsrc ⟨hlo, hhi⟩),
      fun hk a hlo hhi => hmem a (not_overlaps_disjoint (hkey hk) ⟨hlo, hhi⟩)⟩

/-! ## What an outcome depends on -/

/-- A command that meets no undefined cell commits one outcome in every state with the same inputs (R141). -/
theorem exec_commits_same_outcome {i : Instr} {s s' : State} (hops : SameOperands s s') (hcfg : s'.config = s.config)
    (hcells : ∀ a, ReadsCell i s a → s'.mem.byteAt a = s.mem.byteAt a) (hdef : FetchesDefined i s) :
    ∃ r, exec i s = .next (s.commit r) ∧ exec i s' = .next (s'.commit r) := by
  have hp' := precheck_congr hops hcfg (isKeyed i)
  cases hp : s.precheck (isKeyed i) with
  | some d =>
    rw [hp] at hp'
    exact ⟨.error d, exec_of_failed_check hp, exec_of_failed_check hp'⟩
  | none =>
    obtain ⟨src, key8, hf⟩ := fetchFor_of_defined (hdef hp)
    rw [hp] at hp'
    have he' := exec_of_fetch hp' ((fetchFor_congr hops hcells).trans hf)
    obtain ⟨-, -, -, hcap, -, hkl⟩ := hops
    rw [hcap, hcfg, hkl] at he'
    exact ⟨_, exec_of_fetch hp hf, he'⟩

/-- After a success RESULT_LEN bytes at DST_ADDR are the output's, whatever memory held before. -/
theorem commit_output_congr {s s' : State} (hdst : s'.dstAddr = s.dstAddr) {r : TransformResult}
    (h : (s.commit r).err = 0#3) {a : Nat} (hlo : s.dstAddr.toNat ≤ a)
    (hhi : a < s.dstAddr.toNat + (s.commit r).resultLen.toNat) :
    (s'.commit r).mem.byteAt a = (s.commit r).mem.byteAt a := by
  cases r with
  | error d => exact absurd h (errCode_ne_zero _)
  | ok out =>
    rw [State.commit_ok, State.commitOk_resultLen, BitVec.toNat_ofNat] at hhi
    have hin : s.dstAddr.toNat ≤ a ∧ a < s.dstAddr.toNat + out.length :=
      ⟨hlo, Nat.lt_of_lt_of_le hhi (Nat.add_le_add_left (Nat.mod_le _ _) _)⟩
    simp only [State.commit_ok, State.commitOk_mem, hdst, byteAt_write, if_pos hin]

/-- Settles O29. -/
theorem outcomeDependsOnlyOnInputs : Obligations.OutcomeDependsOnlyOnInputs := by
  intro i s s' t hops hcfg hcells hdef h
  obtain ⟨r, he, he'⟩ := exec_commits_same_outcome hops hcfg hcells hdef
  cases h.symm.trans he
  obtain ⟨-, -, hdst, -⟩ := hops
  refine ⟨_, he', ?_, ?_, ?_, fun herr a => commit_output_congr hdst herr⟩ <;> cases r <;> rfl

/-! ## The engine's turn -/

theorem completeWord_of_ok {w : Word} {i : Instr} (h : decode w = .ok i) (s : State) : completeWord w s = exec i s := by
  rw [completeWord, h]

/-- Settles O3. -/
theorem stepRunsDecodedCommand : Obligations.StepRunsDecodedCommand := by
  intro s w i hw ha hb hc hd _
  rw [step_of_engine hw ha hb hc, completeWord_of_ok hd]

/-- Every command word completes, an illegal one with its error (R103, R140). -/
theorem completeWord_completes (w : Word) (s : State) :
    ∃ t, completeWord w s = .next t ∧ t.busy = false ∧ t.done = true ∧ t.cur = none := by
  cases hd : decode w with
  | ok i => exact completeWord_of_ok hd s ▸ exec_completes i s
  | error e => exact ⟨_, completeWord_of_error hd s, rfl, rfl, rfl⟩

/-- Settles O41: a legal state with BUSY = 1 holds a command word. -/
theorem everyCommandCompletes : Obligations.EveryCommandCompletes := by
  refine ⟨exec_completes, fun s hw hs hb ha => ?_⟩
  obtain ⟨hcur, -⟩ := hs
  obtain ⟨w, hc⟩ := Option.isSome_iff_exists.mp (hcur.trans hb)
  rw [step_of_engine hw ha hb hc]
  exact completeWord_completes w s.popTurn

end Sys2Proof.Machine
end

section
/-!
PROOFS of the LZW family (41_lzw.md), the bit layout of packed codes (R163, R164): both packing and unpacking cut a word in its
nibbles and bytes and put these together again, which keeps the bit string.
-/

namespace Sys2Proof.Machine

/-! ## Bits, most significant first -/

/-- The bits of a word, most significant first: `bitsOfByte` and `codeBits` at every width, nibbles included. -/
def msbFirst {w : Nat} (x : BitVec w) : List Bool := (List.range w).map (fun k => x.getLsbD (w - 1 - k))

theorem msbFirst_append {n m : Nat} (x : BitVec n) (y : BitVec m) : msbFirst (x ++ y) = msbFirst x ++ msbFirst y := by
  rw [msbFirst, List.range_add, List.map_append, List.map_map]
  congr 1 <;> refine List.map_congr_left fun k hk => ?_ <;> rw [List.mem_range] at hk
  · rw [BitVec.getLsbD_append, if_neg (by omega)]
    congr 1
    omega
  · rw [Function.comp_apply, BitVec.getLsbD_append, if_pos (by omega)]
    congr 1
    omega

@[simp] theorem codeBits_length (c : Code) : (codeBits c).length = 12 := by simp [codeBits]

theorem bitsOfByte_append (x y : BitVec 4) : bitsOfByte (x ++ y) = msbFirst x ++ msbFirst y := msbFirst_append x y

theorem codeBits_append_nibble (x : Byte) (y : BitVec 4) : codeBits (x ++ y) = bitsOfByte x ++ msbFirst y :=
  msbFirst_append x y

theorem codeBits_nibble_append (x : BitVec 4) (y : Byte) : codeBits (x ++ y) = msbFirst x ++ bitsOfByte y :=
  msbFirst_append x y

/-- A code is its upper byte and its lower nibble. -/
theorem code_eq_byte_append (a : Code) : a.extractLsb' 4 8 ++ a.extractLsb' 0 4 = a :=
  BitVec.extractLsb'_append_extractLsb'

/-- A code is its upper nibble and its lower byte. -/
theorem code_eq_nibble_append (a : Code) : a.extractLsb' 8 4 ++ a.extractLsb' 0 8 = a :=
  BitVec.extractLsb'_append_extractLsb'

/-- A byte is its two nibbles. -/
theorem byte_eq_append (x : Byte) : x.extractLsb' 4 4 ++ x.extractLsb' 0 4 = x :=
  BitVec.extractLsb'_append_extractLsb'

theorem codeBits_eq_byte_append (a : Code) :
    codeBits a = bitsOfByte (a.extractLsb' 4 8) ++ msbFirst (a.extractLsb' 0 4) := by
  rw [← codeBits_append_nibble, code_eq_byte_append]

theorem codeBits_eq_nibble_append (a : Code) :
    codeBits a = msbFirst (a.extractLsb' 8 4) ++ bitsOfByte (a.extractLsb' 0 8) := by
  rw [← codeBits_nibble_append, code_eq_nibble_append]

theorem bitsOfByte_eq_append (x : Byte) : bitsOfByte x = msbFirst (x.extractLsb' 4 4) ++ msbFirst (x.extractLsb' 0 4) := by
  rw [← bitsOfByte_append, byte_eq_append]

/-! ## The bits of a byte sequence -/

@[simp] theorem bitsOfBytes_nil : bitsOfBytes [] = [] := rfl

@[simp] theorem bitsOfBytes_cons (x : Byte) (s : Bytes) : bitsOfBytes (x :: s) = bitsOfByte x ++ bitsOfBytes s := rfl

theorem bitsOfByte_getElem? (x : Byte) {k : Nat} (h : k < 8) : (bitsOfByte x)[k]? = some (x.getLsbD (7 - k)) := by
  simp [bitsOfByte, h]

/-- Bit `k` of a byte sequence is bit `7 - k mod 8` of byte `k / 8` (R164). -/
theorem bitsOfBytes_getElem? (s : Bytes) {k : Nat} (h : k < 8 * s.length) :
    (bitsOfBytes s)[k]? = some ((s.getD (k / 8) 0#8).getLsbD (7 - k % 8)) := by
  induction s generalizing k with
  | nil => simp at h
  | cons x s ih =>
    rw [bitsOfBytes_cons]
    by_cases hk : k < 8
    · rw [List.getElem?_append_left (by simpa using hk), bitsOfByte_getElem? x hk, Nat.div_eq_of_lt hk,
        Nat.mod_eq_of_lt hk, List.getD_cons_zero]
    · obtain ⟨j, rfl⟩ := Nat.exists_eq_add_of_le' (Nat.not_lt.mp hk)
      rw [List.length_cons] at h
      rw [List.getElem?_append_right (by simp), bitsOfByte_length, Nat.add_sub_cancel, ih (by omega),
        Nat.add_div_right j (by decide), List.getD_cons_succ, Nat.add_mod_right]

/-! ## Packing and unpacking -/

/-- Packed codes hold the bits of the codes in order, then four zero bits after an odd number (R163). -/
theorem bitsOfBytes_pack12 : ∀ codes : List Code, bitsOfBytes (pack12 codes) =
    codes.flatMap codeBits ++ List.replicate (if codes.length % 2 = 1 then 4 else 0) false
  | [] => rfl
  | [a] => by
    have hpad : msbFirst 0#4 = List.replicate 4 false := rfl
    simp [pack12, bitsOfByte_append, codeBits_eq_byte_append a, hpad]
  | a :: b :: rest => by
    simp [pack12, bitsOfByte_append, codeBits_eq_byte_append a, codeBits_eq_nibble_append b, bitsOfBytes_pack12 rest,
      Nat.add_assoc]

theorem pack12_length : ∀ codes : List Code, (pack12 codes).length = (3 * codes.length + 1) / 2
  | [] | [_] => by simp [pack12]
  | a :: b :: rest => by
    simp only [pack12, List.length_cons, pack12_length rest]
    omega

theorem unpack12_length : ∀ s : Bytes, (unpack12 s).length = 8 * s.length / 12
  | [] | [_] | [_, _] => by simp [unpack12]
  | _ :: _ :: _ :: rest => by
    simp only [unpack12, List.length_cons, unpack12_length rest]
    omega

/-- The codes of a stream are its first bits in order, whatever bits trail (R164). -/
theorem flatMap_codeBits_unpack12 : ∀ s : Bytes,
    (unpack12 s).flatMap codeBits = (bitsOfBytes s).take (12 * (8 * s.length / 12))
  | [] | [_] => by simp [unpack12]
  | [x, y] => by
    have hbits : bitsOfBytes [x, y] = codeBits (x ++ y.extractLsb' 4 4) ++ msbFirst (y.extractLsb' 0 4) := by
      simp [codeBits_append_nibble, bitsOfByte_eq_append y]
    rw [hbits, List.take_left' (by simp)]
    simp [unpack12]
  | x :: y :: z :: rest => by
    have hlen : 12 * (8 * (x :: y :: z :: rest).length / 12) =
        (bitsOfBytes [x, y, z]).length + 12 * (8 * rest.length / 12) := by
      simp only [bitsOfBytes_length, List.length_cons, List.length_nil]
      omega
    have hbits : bitsOfBytes (x :: y :: z :: rest) = bitsOfBytes [x, y, z] ++ bitsOfBytes rest := by simp
    rw [hlen, hbits, List.take_length_add_append, ← flatMap_codeBits_unpack12 rest]
    simp [unpack12, codeBits_append_nibble, codeBits_nibble_append, bitsOfByte_eq_append y]

theorem unpack12_pack12 : ∀ codes : List Code, unpack12 (pack12 codes) = codes
  | [] => rfl
  | [a] => by rw [pack12, unpack12, BitVec.extractLsb'_append_eq_left, code_eq_byte_append]
  | a :: b :: rest => by
    rw [pack12, unpack12, BitVec.extractLsb'_append_eq_left, BitVec.extractLsb'_append_eq_right, code_eq_byte_append,
      code_eq_nibble_append, unpack12_pack12 rest]

/-- Settles O51. -/
theorem unpackUndoesPack : Obligations.UnpackUndoesPack :=
  ⟨fun s _ => bitsOfBytes_getElem? s, bitsOfBytes_pack12, flatMap_codeBits_unpack12,
    fun codes => ⟨unpack12_pack12 codes, pack12_length codes⟩, unpack12_length⟩

end Sys2Proof.Machine
end

section
/-!
PROOFS of the LZW family (41_lzw.md), the dictionary and the loops: the compressor's and the decompressor's loop case by case
(R161, R162, R165, R167), the number of codes (R170), and decompression undoing compression (R169).
-/

namespace Sys2Proof.Machine

/-! ## The dictionary -/

@[simp] theorem freshDict_length : freshDict.length = 256 := by simp [freshDict]

theorem freshDict_getElem? {c : Nat} (h : c < 256) : freshDict[c]? = some [BitVec.ofNat 8 c] := by
  simp [freshDict, h]

/-- The fresh entries are the single bytes (R161). -/
theorem mem_freshDict_iff (w : Bytes) : w ∈ freshDict ↔ ∃ b, w = [b] := by
  constructor
  · intro h
    obtain ⟨c, -, rfl⟩ := List.mem_map.mp h
    exact ⟨_, rfl⟩
  · rintro ⟨b, rfl⟩
    exact List.mem_map.mpr ⟨b.toNat, List.mem_range.mpr b.isLt, by rw [BitVec.ofNat_toNat, BitVec.setWidth_eq]⟩

theorem dictAdd_of_lt {d : Dict} (h : d.length < 4096) (s : Bytes) : dictAdd d s = d ++ [s] := if_pos h

theorem dictAdd_of_full {d : Dict} (h : 4096 ≤ d.length) (s : Bytes) : dictAdd d s = d := if_neg (Nat.not_lt.mpr h)

/-- What the entry of a place is after an addition: an old entry, or the one added at the end (R162). -/
theorem dictAdd_getElem?_eq_some {d : Dict} {s e : Bytes} {k : Nat} (h : (dictAdd d s)[k]? = some e) :
    d[k]? = some e ∨ k = d.length ∧ e = s := by
  rw [dictAdd] at h
  split at h
  · obtain hk | hk := Nat.lt_or_ge k d.length
    · rw [List.getElem?_append_left hk] at h
      exact .inl h
    · rw [List.getElem?_append_right hk, List.getElem?_singleton] at h
      split at h
      · cases h
        exact .inr ⟨by omega, rfl⟩
      · cases h
  · exact .inl h

theorem mem_dictAdd {d : Dict} {w : Bytes} (h : w ∈ d) (s : Bytes) : w ∈ dictAdd d s := by
  rw [dictAdd]
  split
  · exact List.mem_append_left _ h
  · exact h

/-- The code of an entry is its place, which 12 bits hold (R165). -/
theorem getElem?_codeOf {d : Dict} {w : Bytes} (hd : d.length ≤ 4096) (hw : w ∈ d) :
    d[(codeOf d w).toNat]? = some w := by
  have hlt : d.idxOf w < d.length := List.idxOf_lt_length_of_mem hw
  rw [codeOf, BitVec.toNat_ofNat, Nat.mod_eq_of_lt (Nat.lt_of_lt_of_le hlt hd), List.getElem?_eq_getElem hlt,
    List.getElem_idxOf]

/-! ## The compressor's loop -/

theorem lzwEncodeLoop_of_mem {d : Dict} {w : Bytes} {c : Byte} (h : w ++ [c] ∈ d) (rest : Bytes) :
    lzwEncodeLoop d w (c :: rest) = lzwEncodeLoop d (w ++ [c]) rest := by
  rw [lzwEncodeLoop, if_pos (List.contains_iff_mem.mpr h)]

theorem lzwEncodeLoop_of_not_mem {d : Dict} {w : Bytes} {c : Byte} (h : w ++ [c] ∉ d) (rest : Bytes) :
    lzwEncodeLoop d w (c :: rest) = codeOf d w :: lzwEncodeLoop (dictAdd d (w ++ [c])) [c] rest := by
  rw [lzwEncodeLoop, if_neg (fun hc => h (List.contains_iff_mem.mp hc))]

/-- The loop emits the last match and at most one code for each byte (R170). -/
theorem lzwEncodeLoop_length (d : Dict) (w rest : Bytes) :
    1 ≤ (lzwEncodeLoop d w rest).length ∧ (lzwEncodeLoop d w rest).length ≤ rest.length + 1 := by
  induction rest generalizing d w with
  | nil => simp [lzwEncodeLoop]
  | cons c rest ih =>
    by_cases h : w ++ [c] ∈ d
    · rw [lzwEncodeLoop_of_mem h, List.length_cons]
      have := ih d (w ++ [c])
      omega
    · rw [lzwEncodeLoop_of_not_mem h, List.length_cons, List.length_cons]
      have := ih (dictAdd d (w ++ [c])) [c]
      omega

/-- Settles O53. -/
theorem lzwCodeCountBounds : Obligations.LzwCodeCountBounds := by
  refine ⟨⟨freshDict_length, fun c => freshDict_getElem?⟩,
    fun d s => ⟨fun h => dictAdd_of_lt h s, fun h => dictAdd_of_full h s⟩, ⟨rfl, fun b rest => rfl⟩,
    fun d w c rest => ⟨rfl, fun h => lzwEncodeLoop_of_mem h rest, fun h => lzwEncodeLoop_of_not_mem h rest⟩,
    fun d w => getElem?_codeOf, fun x out hx hout => ?_⟩
  cases x with
  | nil => exact absurd rfl hx
  | cons b rest =>
    cases hout
    obtain ⟨hpos, hle⟩ := lzwEncodeLoop_length freshDict [b] rest
    rw [pack12_length, lzwEncodeCodes, List.length_cons]
    omega

/-! ## The decompressor's loop -/

theorem lzwEntry_of_getElem? {d : Dict} {c : Code} {e : Bytes} (h : d[c.toNat]? = some e) (prev : Bytes) :
    lzwEntry d prev c = some e := by
  obtain ⟨hlt, -⟩ := List.getElem?_eq_some_iff.mp h
  rw [lzwEntry, if_pos hlt, h]

theorem lzwEntry_of_next {d : Dict} {c : Code} (h : c.toNat = d.length) (prev : Bytes) :
    lzwEntry d prev c = some (prev ++ prev.take 1) := by
  rw [lzwEntry, if_neg (by omega), if_pos h]

theorem lzwEntry_of_ahead {d : Dict} {c : Code} (h : d.length < c.toNat) (prev : Bytes) : lzwEntry d prev c = none := by
  rw [lzwEntry, if_neg (by omega), if_neg (by omega)]

theorem lzwDecodeLoop_of_entry {d : Dict} {prev e : Bytes} {c : Code} (h : lzwEntry d prev c = some e) (rest : List Code) :
    lzwDecodeLoop d prev (c :: rest) = (lzwDecodeLoop (dictAdd d (prev ++ e.take 1)) e rest).prepend e := by
  rw [lzwDecodeLoop, h]

theorem lzwDecodeLoop_of_ahead {d : Dict} {c : Code} (h : d.length < c.toNat) (prev : Bytes) (rest : List Code) :
    lzwDecodeLoop d prev (c :: rest) = .error .lzwCodeAhead := by
  rw [lzwDecodeLoop, lzwEntry_of_ahead h]

theorem lzwDecodeCodes_of_le {a : Code} (h : a.toNat ≤ 255) (rest : List Code) :
    lzwDecodeCodes (a :: rest) = (lzwDecodeLoop freshDict [a.setWidth 8] rest).prepend [a.setWidth 8] :=
  if_neg (Nat.not_lt.mpr h)

theorem lzwDecodeCodes_of_bad_first {a : Code} (h : 255 < a.toNat) (rest : List Code) :
    lzwDecodeCodes (a :: rest) = .error .lzwBadFirstCode := if_pos h

@[simp] theorem prepend_ok (e out : Bytes) : (TransformResult.ok out).prepend e = .ok (e ++ out) := rfl

@[simp] theorem prepend_error (e : Bytes) (x : Detail) : (TransformResult.error x).prepend e = .error x := rfl

theorem prepend_eq_error_iff (e : Bytes) (r : TransformResult) (x : Detail) : r.prepend e = .error x ↔ r = .error x := by
  cases r <;> simp

/-- A code below 256 is its byte, over the fresh dictionary (R161). -/
theorem lzwEntry_freshDict {b : Code} (h : b.toNat ≤ 255) (prev : Bytes) : lzwEntry freshDict prev b = some [b.setWidth 8] :=
  lzwEntry_of_getElem? (freshDict_getElem? (Nat.lt_succ_of_le h)) prev

/-- A stream of two codes, the first of them legal, decodes to its byte and the second code's entry. -/
theorem lzwDecodeCodes_pair {a b : Code} {e : Bytes} (ha : a.toNat ≤ 255)
    (hb : lzwEntry freshDict [a.setWidth 8] b = some e) : lzwDecodeCodes [a, b] = .ok (a.setWidth 8 :: e) := by
  rw [lzwDecodeCodes_of_le ha, lzwDecodeLoop_of_entry hb, lzwDecodeLoop]
  simp

/-- Settles O54. -/
theorem lzwFirstTwoCodes : Obligations.LzwFirstTwoCodes := by
  refine ⟨⟨rfl, rfl, fun _ => rfl⟩, fun a rest ha => ⟨fun out h => ?_, fun x h => ?_⟩,
    fun d prev e c rest => ⟨rfl, fun hc => ?_, fun hc => lzwDecodeLoop_of_ahead hc prev rest⟩,
    fun a b rest => ⟨fun ha => lzwDecodeCodes_of_bad_first ha rest,
      fun ha hb => lzwDecodeCodes_pair ha (lzwEntry_freshDict hb _),
      fun ha hb => lzwDecodeCodes_pair ha (lzwEntry_of_next (hb.trans freshDict_length.symm) _), fun ha hb => ?_⟩⟩
  · rw [lzwDecodeCodes_of_le ha, h, prepend_ok, List.singleton_append]
  · rw [lzwDecodeCodes_of_le ha, h, prepend_error]
  · have he : lzwEntry d prev c = some e := by
      obtain hknown | ⟨hnext, rfl⟩ := hc
      · exact lzwEntry_of_getElem? hknown prev
      · exact lzwEntry_of_next hnext prev
    rw [lzwDecodeLoop_of_entry he]
    exact ⟨prepend_eq_error_iff e _, fun out h => by rw [h, prepend_ok]⟩
  · rw [lzwDecodeCodes_of_le ha, lzwDecodeLoop_of_ahead (freshDict_length.symm ▸ hb), prepend_error]

/-! ## Decompression undoes compression -/

/-- How the decompressor stands to the compressor before each code but the first (R169): its dictionary `d` lacks only the
entry `prev ++ [c]` that the compressor added last, where `prev` is the entry before and `c` the first byte of the
compressor's current match `w`. -/
structure OneBehind (d : Dict) (prev w : Bytes) (c : Byte) : Prop where
  bounded : d.length ≤ 4096
  bytes : ∀ b, [b] ∈ d
  prev_ne_nil : prev ≠ []
  mem : w ∈ dictAdd d (prev ++ [c])
  first : w.take 1 = [c]

/-- The decompressor reads the entry that the compressor emitted, even where it is the one it lacks. -/
theorem OneBehind.entry {d : Dict} {prev w : Bytes} {c : Byte} (h : OneBehind d prev w c) :
    lzwEntry d prev (codeOf (dictAdd d (prev ++ [c])) w) = some w := by
  obtain ⟨hd, -, hprev, hw, hc⟩ := h
  obtain hold | ⟨hnext, rfl⟩ := dictAdd_getElem?_eq_some (getElem?_codeOf (dictAdd_length_le hd _) hw)
  · exact lzwEntry_of_getElem? hold prev
  · rw [List.take_append_of_le_length (List.length_pos_iff.mpr hprev)] at hc
    rw [lzwEntry_of_next hnext, hc]

theorem OneBehind.extend {d : Dict} {prev w : Bytes} {c x : Byte} (h : OneBehind d prev w c)
    (hx : w ++ [x] ∈ dictAdd d (prev ++ [c])) : OneBehind d prev (w ++ [x]) c := by
  obtain ⟨hd, hbytes, hprev, -, hc⟩ := h
  refine ⟨hd, hbytes, hprev, hx, ?_⟩
  cases w with
  | nil => cases hc
  | cons b w => exact hc

/-- After a code the decompressor has the entry it lacked, and lacks the one the compressor adds next. -/
theorem OneBehind.restart {d : Dict} {prev w : Bytes} {c : Byte} (h : OneBehind d prev w c) (x : Byte) :
    OneBehind (dictAdd d (prev ++ [c])) w [x] x := by
  obtain ⟨hd, hbytes, -, -, hc⟩ := h
  refine ⟨dictAdd_length_le hd _, fun b => mem_dictAdd (hbytes b) _, ?_, mem_dictAdd (mem_dictAdd (hbytes x) _) _, rfl⟩
  rintro rfl
  cases hc

/-- Decoding the loop's codes gives the current match and the bytes that follow. -/
theorem OneBehind.decode_encode {d : Dict} {prev w : Bytes} {c : Byte} (h : OneBehind d prev w c) (rest : Bytes) :
    lzwDecodeLoop d prev (lzwEncodeLoop (dictAdd d (prev ++ [c])) w rest) = .ok (w ++ rest) := by
  induction rest generalizing d prev w c with
  | nil => rw [lzwEncodeLoop, lzwDecodeLoop_of_entry h.entry, lzwDecodeLoop, prepend_ok]
  | cons x rest ih =>
    by_cases hx : w ++ [x] ∈ dictAdd d (prev ++ [c])
    · rw [lzwEncodeLoop_of_mem hx, ih (h.extend hx), List.append_assoc, List.singleton_append]
    · rw [lzwEncodeLoop_of_not_mem hx, lzwDecodeLoop_of_entry h.entry, h.first, ih (h.restart x), prepend_ok,
        List.singleton_append]

/-- Over the fresh dictionary a single byte's code is the byte (R161). -/
theorem codeOf_freshDict (b : Byte) :
    (codeOf freshDict [b]).toNat ≤ 255 ∧ (codeOf freshDict [b]).setWidth 8 = b := by
  have hentry := getElem?_codeOf (by simp) ((mem_freshDict_iff [b]).mpr ⟨b, rfl⟩)
  obtain ⟨hlt, -⟩ := List.getElem?_eq_some_iff.mp hentry
  rw [freshDict_length] at hlt
  rw [freshDict_getElem? hlt] at hentry
  refine ⟨Nat.le_of_lt_succ hlt, ?_⟩
  simpa using hentry

/-- The first code is the first byte's, since no entry of two bytes is there yet. -/
theorem lzwDecodeCodes_lzwEncodeCodes (x : Bytes) : lzwDecodeCodes (lzwEncodeCodes x) = .ok x := by
  match x with
  | [] => rfl
  | [b] =>
    obtain ⟨hle, hbyte⟩ := codeOf_freshDict b
    rw [lzwEncodeCodes, lzwEncodeLoop, lzwDecodeCodes_of_le hle, hbyte, lzwDecodeLoop, prepend_ok, List.append_nil]
  | b :: c :: rest =>
    obtain ⟨hle, hbyte⟩ := codeOf_freshDict b
    have hpair : [b] ++ [c] ∉ freshDict := by simp [mem_freshDict_iff]
    have hstart : OneBehind freshDict [b] [c] c :=
      ⟨by simp, fun x => (mem_freshDict_iff [x]).mpr ⟨x, rfl⟩, List.cons_ne_nil b [],
        mem_dictAdd ((mem_freshDict_iff [c]).mpr ⟨c, rfl⟩) _, rfl⟩
    rw [lzwEncodeCodes, lzwEncodeLoop_of_not_mem hpair, lzwDecodeCodes_of_le hle, hbyte, hstart.decode_encode, prepend_ok]
    rfl

/-- Settles O52. -/
theorem lzwRoundTrip : Obligations.LzwRoundTrip := fun x =>
  ⟨_, rfl, by rw [lzwDecompress, unpack12_pack12, lzwDecodeCodes_lzwEncodeCodes]⟩

end Sys2Proof.Machine
end

section
/-!
PROOFS of the LZW family (41_lzw.md), the two commands: a command whose checks pass and whose inputs are defined completes with
its transform's outcome (R136, R137), which for LZW_DECOMP can fail with its two FORMAT errors alone (R168).
-/

namespace Sys2Proof.Machine

/-! ## A fetch of given bytes -/

/-- A range that holds given bytes is fetched as these. -/
theorem read_of_holds {m : Memory} {a : Nat} {src : Bytes} (h : ∀ k, k < src.length → m.byteAt (a + k) = src[k]?) :
    m.read a src.length = .ok src := by
  have hdef : ∀ y, a ≤ y → y < a + src.length → m.byteAt y ≠ none := by
    intro y hlo hhi
    obtain ⟨k, rfl⟩ := Nat.exists_eq_add_of_le hlo
    rw [h k (by omega), List.getElem?_eq_getElem (by omega)]
    exact Option.some_ne_none _
  obtain ⟨s, hs⟩ := read_defined hdef
  obtain ⟨hlen, hbytes⟩ := read_ok hs
  have heq : s = src := by
    refine List.ext_getElem? fun k => ?_
    obtain hk | hk := Nat.lt_or_ge k src.length
    · rw [← hbytes k hk, h k hk]
    · rw [List.getElem?_eq_none (by omega), List.getElem?_eq_none hk]
  rw [hs, heq]

theorem fetchSrc_of_srcHolds {s : State} {src : Bytes} (h : SrcHolds s src) : s.fetchSrc = .ok src := by
  obtain ⟨hlen, hbytes⟩ := h
  rw [State.fetchSrc, ← hlen, read_of_holds hbytes]

theorem fetchFor_codec_of_srcHolds {i : Instr} (hi : isKeyed i = false) {s : State} {src : Bytes} (h : SrcHolds s src) :
    s.fetchFor i = .ok (src, []) := by
  rw [fetchFor_of_codec hi, fetchSrc_of_srcHolds h]
  rfl

/-! ## A command's completion from its transform's outcome -/

theorem capacityCheck_of_le {cap : Nat} {out : Bytes} (h : out.length ≤ cap) : capacityCheck cap (.ok out) = .ok out :=
  if_neg (Nat.not_lt.mpr h)

theorem capacityCheck_of_lt {cap : Nat} {out : Bytes} (h : cap < out.length) :
    capacityCheck cap (.ok out) = .error .dstTooSmall := if_pos h

section
variable {i : Instr} {s : State} {src key8 : Bytes} (hp : s.precheck (isKeyed i) = none)
  (hf : s.fetchFor i = .ok (src, key8))
include hp hf

theorem exec_completedOk {out : Bytes} (ht : transformOf i s.config src s.keyLen.toNat key8 = .ok out)
    (hl : out.length ≤ s.dstCap.toNat) : ∃ t, exec i s = .next t ∧ CompletedOk s t out := by
  refine ⟨_, exec_of_fetch hp hf, ?_⟩
  rw [ht, capacityCheck_of_le hl]
  exact commitOk_spec hl

theorem exec_dstTooSmall {out : Bytes} (ht : transformOf i s.config src s.keyLen.toNat key8 = .ok out)
    (hl : s.dstCap.toNat < out.length) : ∃ t, exec i s = .next t ∧ CompletedError s t .dstTooSmall := by
  refine ⟨_, exec_of_fetch hp hf, ?_⟩
  rw [ht, capacityCheck_of_lt hl]
  exact commitError_spec s _

theorem exec_completedError {d : Detail} (ht : transformOf i s.config src s.keyLen.toNat key8 = .error d) :
    ∃ t, exec i s = .next t ∧ CompletedError s t d := by
  refine ⟨_, exec_of_fetch hp hf, ?_⟩
  rw [ht]
  exact commitError_spec s d

end

/-! ## LZW_COMP and LZW_DECOMP -/

/-- Settles O22: the compression never fails. -/
theorem lzwCompResult : Obligations.LzwCompResult := fun _ _ hp hsrc =>
  have hf := fetchFor_codec_of_srcHolds (i := .lzwComp) rfl hsrc
  ⟨exec_completedOk (i := .lzwComp) hp hf rfl, exec_dstTooSmall (i := .lzwComp) hp hf rfl⟩

theorem lzwDecodeLoop_error {d : Dict} {prev : Bytes} {codes : List Code} {x : Detail}
    (h : lzwDecodeLoop d prev codes = .error x) : x = .lzwCodeAhead := by
  induction codes generalizing d prev with
  | nil => cases h
  | cons c rest ih =>
    cases he : lzwEntry d prev c with
    | none =>
      rw [lzwDecodeLoop, he] at h
      cases h
      rfl
    | some e =>
      rw [lzwDecodeLoop_of_entry he, prepend_eq_error_iff] at h
      exact ih h

/-- A stream fails at its first code or at a later one that is ahead (R168). -/
theorem lzwDecodeCodes_error {codes : List Code} {x : Detail} (h : lzwDecodeCodes codes = .error x) :
    x = .lzwBadFirstCode ∨ x = .lzwCodeAhead := by
  cases codes with
  | nil => cases h
  | cons a rest =>
    obtain ha | ha := Nat.lt_or_ge 255 a.toNat
    · rw [lzwDecodeCodes_of_bad_first ha] at h
      cases h
      exact .inl rfl
    · rw [lzwDecodeCodes_of_le ha, prepend_eq_error_iff] at h
      exact .inr (lzwDecodeLoop_error h)

/-- Settles O23. -/
theorem lzwDecompResult : Obligations.LzwDecompResult := fun _ _ hp hsrc =>
  have hf := fetchFor_codec_of_srcHolds (i := .lzwDecomp) rfl hsrc
  ⟨fun _ h => ⟨lzwDecodeCodes_error h, exec_completedError (i := .lzwDecomp) hp hf h⟩,
    fun _ h => ⟨exec_completedOk (i := .lzwDecomp) hp hf h, exec_dstTooSmall (i := .lzwDecomp) hp hf h⟩⟩

end Sys2Proof.Machine
end

section
/-!
PROOFS of the Huffman family (42_huffman.md), the priority queue of R203: what one turn of its two sift loops does, and that an
insertion and an extraction keep the min-heap order and the nodes.
-/

namespace Sys2Proof.Machine

/-! ## Weights and swaps -/

theorem heapWeight_of_getElem? {h : Heap} {i : Nat} {n : Node} (hn : h[i]? = some n) : heapWeight h i = n.weight := by
  rw [heapWeight, hn]

theorem heapWeight_congr {h h' : Heap} {i j : Nat} (heq : h[i]? = h'[j]?) : heapWeight h i = heapWeight h' j := by
  rw [heapWeight, heapWeight, heq]

theorem heapSwap_eq_set {h : Heap} {i j : Nat} (hi : i < h.length) (hj : j < h.length) :
    heapSwap h i j = (h.set i h[j]).set j h[i] := by
  rw [heapSwap, List.getElem?_eq_getElem hi, List.getElem?_eq_getElem hj]

theorem heapSwap_perm {h : Heap} {i j : Nat} (hi : i < h.length) (hj : j < h.length) : (heapSwap h i j).Perm h :=
  heapSwap_eq_set hi hj ▸ List.set_set_perm hi hj

theorem heapSwap_getElem? {h : Heap} {i j : Nat} (hi : i < h.length) (hj : j < h.length) (x : Nat) :
    (heapSwap h i j)[x]? = if x = i then h[j]? else if x = j then h[i]? else h[x]? := by
  rw [heapSwap_eq_set hi hj]
  grind

theorem heapWeight_heapSwap {h : Heap} {i j : Nat} (hi : i < h.length) (hj : j < h.length) (x : Nat) :
    heapWeight (heapSwap h i j) x =
      if x = i then heapWeight h j else if x = j then heapWeight h i else heapWeight h x := by
  split_ifs with hxi hxj
  · exact heapWeight_congr (by rw [heapSwap_getElem? hi hj, if_pos hxi])
  · exact heapWeight_congr (by rw [heapSwap_getElem? hi hj, if_neg hxi, if_pos hxj])
  · exact heapWeight_congr (by rw [heapSwap_getElem? hi hj, if_neg hxi, if_neg hxj])

/-! ## Sift up -/

theorem siftUp_stop {h : Heap} {i : Nat} (hle : i = 0 ∨ heapWeight h ((i - 1) / 2) ≤ heapWeight h i) (k : Nat) :
    siftUp k h i = h := by
  cases k with
  | zero => rfl
  | succ k => exact if_neg (by omega)

theorem siftUp_swap {h : Heap} {i : Nat} (hi : 0 < i) (hlt : heapWeight h i < heapWeight h ((i - 1) / 2)) (k : Nat) :
    siftUp (k + 1) h i = siftUp k (heapSwap h i ((i - 1) / 2)) ((i - 1) / 2) := if_pos ⟨hi, hlt⟩

/-- The heap order where node `i` may be lighter than its parent: the state of the sift-up loop. -/
structure OrderedButAbove (h : Heap) (i : Nat) : Prop where
  others : ∀ j, j < h.length → 0 < j → j ≠ i → heapWeight h ((j - 1) / 2) ≤ heapWeight h j
  children : 0 < i → ∀ j, j < h.length → 0 < j → (j - 1) / 2 = i → heapWeight h ((i - 1) / 2) ≤ heapWeight h j

/-- A swap with the heavier parent moves the possible disorder up: the other child of the parent is no lighter than it, and
the node's own children were no lighter than the parent. -/
theorem OrderedButAbove.swap {h : Heap} {i : Nat} (ho : OrderedButAbove h i) (hi : 0 < i) (hil : i < h.length)
    (hlt : heapWeight h i < heapWeight h ((i - 1) / 2)) :
    OrderedButAbove (heapSwap h i ((i - 1) / 2)) ((i - 1) / 2) := by
  obtain ⟨hothers, hchildren⟩ := ho
  have hpl : (i - 1) / 2 < h.length := by omega
  constructor
  · intro j hj hj0 hji
    rw [(heapSwap_perm hil hpl).length_eq] at hj
    have hother := hothers j hj hj0
    have hchild := hchildren hi j hj hj0
    clear hothers hchildren
    simp only [heapWeight_heapSwap hil hpl]
    grind
  · intro hp j hj hj0 hji
    rw [(heapSwap_perm hil hpl).length_eq] at hj
    have hother := hothers j hj hj0
    have hparent := hothers _ hpl hp (by omega)
    clear hothers hchildren
    simp only [heapWeight_heapSwap hil hpl]
    grind

theorem siftUp_perm {h : Heap} {i : Nat} (hi : i < h.length) (k : Nat) : (siftUp k h i).Perm h := by
  induction k generalizing h i with
  | zero => rfl
  | succ k ih =>
    by_cases hc : 0 < i ∧ heapWeight h i < heapWeight h ((i - 1) / 2)
    · obtain ⟨hi0, hlt⟩ := hc
      have hswap := heapSwap_perm hi (show (i - 1) / 2 < h.length by omega)
      rw [siftUp_swap hi0 hlt]
      exact (ih (by rw [hswap.length_eq]; omega)).trans hswap
    · rw [siftUp_stop (by omega)]

theorem OrderedButAbove.ordered {h : Heap} {i : Nat} (ho : OrderedButAbove h i)
    (hle : i = 0 ∨ heapWeight h ((i - 1) / 2) ≤ heapWeight h i) : HeapOrdered h := by
  intro j hj hj0
  by_cases hji : j = i
  · subst hji
    omega
  · exact ho.others j hj hj0 hji

theorem siftUp_ordered {h : Heap} {i k : Nat} (ho : OrderedButAbove h i) (hi : i < h.length) (hk : i ≤ k) :
    HeapOrdered (siftUp k h i) := by
  induction k generalizing h i with
  | zero => exact ho.ordered (.inl (by omega))
  | succ k ih =>
    by_cases hc : 0 < i ∧ heapWeight h i < heapWeight h ((i - 1) / 2)
    · obtain ⟨hi0, hlt⟩ := hc
      have hpl : (i - 1) / 2 < h.length := by omega
      rw [siftUp_swap hi0 hlt]
      exact ih (ho.swap hi0 hi hlt) ((heapSwap_perm hi hpl).length_eq ▸ hpl) (by omega)
    · have hle : i = 0 ∨ heapWeight h ((i - 1) / 2) ≤ heapWeight h i := by omega
      rw [siftUp_stop hle]
      exact ho.ordered hle

/-! ## Insertion -/

theorem heapWeight_append_left {h : Heap} {j : Nat} (hj : j < h.length) (l : Heap) :
    heapWeight (h ++ l) j = heapWeight h j :=
  heapWeight_congr (List.getElem?_append_left hj)

theorem heapWeight_append_singleton (h : Heap) (n : Node) : heapWeight (h ++ [n]) h.length = n.weight :=
  heapWeight_of_getElem? List.getElem?_concat_length

theorem heapInsert_of_le {h : Heap} {n : Node} (hle : h = [] ∨ heapWeight h ((h.length - 1) / 2) ≤ n.weight) :
    heapInsert h n = h ++ [n] := by
  refine siftUp_stop ?_ _
  obtain rfl | hle := hle
  · exact .inl rfl
  · cases h with
    | nil => exact .inl rfl
    | cons m h =>
      rw [heapWeight_append_singleton, heapWeight_append_left (by rw [List.length_cons]; omega)]
      exact .inr hle

theorem heapInsert_perm (h : Heap) (n : Node) : (heapInsert h n).Perm (n :: h) :=
  (siftUp_perm (by simp) _).trans (List.perm_append_singleton n h)

theorem heapInsert_ordered {h : Heap} (ho : HeapOrdered h) (n : Node) : HeapOrdered (heapInsert h n) := by
  refine siftUp_ordered ⟨fun j hj hj0 hne => ?_, fun _ j hj _ hpar => ?_⟩ (by simp) (Nat.le_refl _)
  · rw [List.length_append, List.length_singleton] at hj
    rw [heapWeight_append_left (by omega), heapWeight_append_left (by omega)]
    exact ho j (by omega) hj0
  · rw [List.length_append, List.length_singleton] at hj
    omega

/-! ## Sift down -/

theorem siftChoice_self {h : Heap} {i : Nat} (hl : 2 * i + 1 < h.length → heapWeight h i ≤ heapWeight h (2 * i + 1))
    (hr : 2 * i + 2 < h.length → heapWeight h i ≤ heapWeight h (2 * i + 2)) : siftChoice h i = i := by
  have hm : ¬(2 * i + 1 < h.length ∧ heapWeight h (2 * i + 1) < heapWeight h i) := by omega
  simp only [siftChoice, if_neg hm]
  exact if_neg (by omega)

theorem siftChoice_left {h : Heap} {i : Nat} (hl : 2 * i + 1 < h.length)
    (hlt : heapWeight h (2 * i + 1) < heapWeight h i)
    (hr : 2 * i + 2 < h.length → heapWeight h (2 * i + 1) ≤ heapWeight h (2 * i + 2)) : siftChoice h i = 2 * i + 1 := by
  simp only [siftChoice, if_pos (And.intro hl hlt)]
  exact if_neg (by omega)

theorem siftChoice_right {h : Heap} {i : Nat} (hr : 2 * i + 2 < h.length)
    (hlt : heapWeight h (2 * i + 2) < heapWeight h i) (hl : heapWeight h (2 * i + 2) < heapWeight h (2 * i + 1)) :
    siftChoice h i = 2 * i + 2 := by
  refine if_pos ⟨hr, ?_⟩
  split_ifs
  · exact hl
  · exact hlt

/-- What a turn of the sift-down loop picks: the node itself, no heavier than its children, or a child `m` that is strictly
lighter than it and no heavier than the other. -/
theorem siftChoice_cases (h : Heap) (i : Nat) :
    (siftChoice h i = i ∧ ∀ j, j < h.length → 0 < j → (j - 1) / 2 = i → heapWeight h i ≤ heapWeight h j) ∨
      ∃ m, siftChoice h i = m ∧ m < h.length ∧ 0 < m ∧ (m - 1) / 2 = i ∧ heapWeight h m < heapWeight h i ∧
        ∀ j, j < h.length → 0 < j → (j - 1) / 2 = i → heapWeight h m ≤ heapWeight h j := by
  have hchild {w : Nat} (hl : 2 * i + 1 < h.length → w ≤ heapWeight h (2 * i + 1))
      (hr : 2 * i + 2 < h.length → w ≤ heapWeight h (2 * i + 2)) (j : Nat) (hj : j < h.length) (h0 : 0 < j)
      (hpar : (j - 1) / 2 = i) : w ≤ heapWeight h j := by
    obtain rfl | rfl : j = 2 * i + 1 ∨ j = 2 * i + 2 := by omega
    · exact hl hj
    · exact hr hj
  by_cases hr : 2 * i + 2 < h.length ∧ heapWeight h (2 * i + 2) < heapWeight h i ∧
      heapWeight h (2 * i + 2) < heapWeight h (2 * i + 1)
  · obtain ⟨hlen, hlt, hlr⟩ := hr
    exact .inr ⟨_, siftChoice_right hlen hlt hlr, hlen, by omega, by omega, hlt, hchild (by omega) (by omega)⟩
  · by_cases hl : 2 * i + 1 < h.length ∧ heapWeight h (2 * i + 1) < heapWeight h i
    · obtain ⟨hlen, hlt⟩ := hl
      exact .inr ⟨_, siftChoice_left hlen hlt (by omega), hlen, by omega, by omega, hlt, hchild (by omega) (by omega)⟩
    · exact .inl ⟨siftChoice_self (by omega) (by omega), hchild (by omega) (by omega)⟩

theorem siftDown_stop {h : Heap} {i : Nat} (hc : siftChoice h i = i) (k : Nat) : siftDown k h i = h := by
  cases k with
  | zero => rfl
  | succ k => exact if_pos hc

theorem siftDown_swap {h : Heap} {i m : Nat} (hc : siftChoice h i = m) (hne : m ≠ i) (k : Nat) :
    siftDown (k + 1) h i = siftDown k (heapSwap h i m) m := by
  subst hc
  exact if_neg hne

/-- The heap order where node `i` may be heavier than its children: the state of the sift-down loop. -/
structure OrderedButBelow (h : Heap) (i : Nat) : Prop where
  others : ∀ j, j < h.length → 0 < j → (j - 1) / 2 ≠ i → heapWeight h ((j - 1) / 2) ≤ heapWeight h j
  children : 0 < i → ∀ j, j < h.length → 0 < j → (j - 1) / 2 = i → heapWeight h ((i - 1) / 2) ≤ heapWeight h j

theorem OrderedButBelow.ordered {h : Heap} {i : Nat} (ho : OrderedButBelow h i)
    (hle : ∀ j, j < h.length → 0 < j → (j - 1) / 2 = i → heapWeight h i ≤ heapWeight h j) : HeapOrdered h := by
  intro j hj hj0
  by_cases hpar : (j - 1) / 2 = i
  · exact hpar ▸ hle j hj hj0 hpar
  · exact ho.others j hj hj0 hpar

/-- A swap with the lighter child moves the possible disorder down: the other child is no lighter than the new parent, and
neither was the node's parent heavier than it. -/
theorem OrderedButBelow.swap {h : Heap} {i m : Nat} (ho : OrderedButBelow h i) (hm : m < h.length) (hm0 : 0 < m)
    (hpar : (m - 1) / 2 = i) (hlt : heapWeight h m < heapWeight h i)
    (hmin : ∀ j, j < h.length → 0 < j → (j - 1) / 2 = i → heapWeight h m ≤ heapWeight h j) :
    OrderedButBelow (heapSwap h i m) m := by
  obtain ⟨hothers, hchildren⟩ := ho
  have hi : i < h.length := by omega
  constructor
  · intro j hj hj0 hji
    rw [(heapSwap_perm hi hm).length_eq] at hj
    have hother := hothers j hj hj0
    have hgrand := fun h0 => hchildren h0 m hm hm0 hpar
    have hleast := hmin j hj hj0
    clear hothers hchildren hmin
    simp only [heapWeight_heapSwap hi hm]
    grind
  · intro _ j hj hj0 hji
    rw [(heapSwap_perm hi hm).length_eq] at hj
    have hother := hothers j hj hj0
    clear hothers hchildren hmin
    simp only [heapWeight_heapSwap hi hm]
    grind

theorem siftDown_perm {h : Heap} {i : Nat} (hi : i < h.length) (k : Nat) : (siftDown k h i).Perm h := by
  induction k generalizing h i with
  | zero => rfl
  | succ k ih =>
    obtain ⟨hc, -⟩ | ⟨m, hc, hm, h0, hpar, -⟩ := siftChoice_cases h i
    · rw [siftDown_stop hc]
    · have hswap := heapSwap_perm hi hm
      rw [siftDown_swap hc (by omega)]
      exact (ih (hswap.length_eq ▸ hm)).trans hswap

theorem siftDown_ordered {h : Heap} {i k : Nat} (ho : OrderedButBelow h i) (hk : h.length ≤ i + k) :
    HeapOrdered (siftDown k h i) := by
  induction k generalizing h i with
  | zero => exact ho.ordered (by omega)
  | succ k ih =>
    obtain ⟨hc, hle⟩ | ⟨m, hc, hm, h0, hpar, hlt, hmin⟩ := siftChoice_cases h i
    · rw [siftDown_stop hc]
      exact ho.ordered hle
    · rw [siftDown_swap hc (by omega)]
      refine ih (ho.swap hm h0 hpar hlt hmin) ?_
      rw [(heapSwap_perm (by omega) hm).length_eq]
      omega

/-! ## Extraction -/

theorem heapExtract_append_singleton (top last : Node) (mid : List Node) :
    heapExtract (top :: (mid ++ [last])) = some (top, siftDown (mid.length + 1) (last :: mid) 0) := by
  cases mid with
  | nil => rfl
  | cons x mid =>
    rw [List.cons_append, heapExtract, ← List.cons_append, List.dropLast_concat, List.getLastD_concat, List.length_append]
    rfl

/-- Everything an extraction can do: take the only node, or take the first and sift the last down from its place. -/
theorem heapExtract_cases {h rest : Heap} {n : Node} (he : heapExtract h = some (n, rest)) :
    (h = [n] ∧ rest = []) ∨
      ∃ mid last, h = n :: (mid ++ [last]) ∧ rest = siftDown (mid.length + 1) (last :: mid) 0 := by
  cases h with
  | nil => cases he
  | cons top tail =>
    obtain rfl | ⟨mid, last, rfl⟩ := List.eq_nil_or_concat' tail
    · cases he
      exact .inl ⟨rfl, rfl⟩
    · rw [heapExtract_append_singleton] at he
      cases he
      exact .inr ⟨mid, last, rfl, rfl⟩

theorem heapExtract_perm {h rest : Heap} {n : Node} (he : heapExtract h = some (n, rest)) : h.Perm (n :: rest) := by
  obtain ⟨rfl, rfl⟩ | ⟨mid, last, rfl, rfl⟩ := heapExtract_cases he
  · exact .refl _
  · have hsift : (siftDown (mid.length + 1) (last :: mid) 0).Perm (last :: mid) := siftDown_perm (by simp) _
    exact ((List.perm_append_singleton last mid).trans hsift.symm).cons n

theorem heapExtract_ordered {h rest : Heap} {n : Node} (ho : HeapOrdered h) (he : heapExtract h = some (n, rest)) :
    HeapOrdered rest := by
  obtain ⟨rfl, rfl⟩ | ⟨mid, last, rfl, rfl⟩ := heapExtract_cases he
  · intro i hi
    simp at hi
  · have hweight : ∀ j, 0 < j → j < (last :: mid).length →
        heapWeight (last :: mid) j = heapWeight (n :: (mid ++ [last])) j := by
      intro j h0 hj
      refine heapWeight_congr ?_
      obtain ⟨j, rfl⟩ := Nat.exists_eq_add_of_lt h0
      grind
    refine siftDown_ordered ⟨fun j hj hj0 hpar => ?_, fun h0 => absurd h0 (Nat.lt_irrefl 0)⟩ (by simp)
    rw [hweight _ (by omega) (by omega), hweight j hj0 hj]
    refine ho j ?_ hj0
    simp at hj ⊢
    omega

/-- In a heap the first node is one of least weight. -/
theorem heapWeight_zero_le {h : Heap} (ho : HeapOrdered h) {i : Nat} (hi : i < h.length) :
    heapWeight h 0 ≤ heapWeight h i := by
  induction i using Nat.strong_induction_on with
  | _ i ih =>
    obtain rfl | h0 := Nat.eq_zero_or_pos i
    · exact Nat.le_refl _
    · exact (ih ((i - 1) / 2) (by omega) (by omega)).trans (ho i hi h0)

theorem heapExtract_least {h rest : Heap} {n : Node} (ho : HeapOrdered h) (he : heapExtract h = some (n, rest)) :
    ∀ x ∈ h, n.weight ≤ x.weight := by
  intro x hx
  obtain ⟨i, hi, rfl⟩ := List.getElem_of_mem hx
  have hfirst : heapWeight h 0 = n.weight := by
    obtain ⟨rfl, -⟩ | ⟨mid, last, rfl, -⟩ := heapExtract_cases he <;> rfl
  rw [← hfirst, ← heapWeight_of_getElem? (List.getElem?_eq_getElem hi)]
  exact heapWeight_zero_le ho hi

end Sys2Proof.Machine
end

section
/-!
PROOFS of the Huffman family (42_huffman.md), the tree of R204: the leaves that enter the heap, the merging loop, and what a
built tree is; then its codewords (R205), none the start of another and each of 1 to 255 bits.
-/

namespace Sys2Proof.Machine

/-! ## The symbols of a tree -/

/-- The symbols of a tree's leaves, from left to right. -/
def Node.syms (n : Node) : List Byte := (codewords n).map Prod.fst

@[simp] theorem syms_leaf (b : Byte) (w : Nat) : (Node.leaf b w).syms = [b] := rfl

@[simp] theorem syms_internal (w : Nat) (l r : Node) : (Node.internal w l r).syms = l.syms ++ r.syms := by
  simp [Node.syms, codewords, Function.comp_def]

@[simp] theorem syms_synthetic (w : Nat) (l : Node) : (Node.synthetic w l).syms = l.syms := by
  simp [Node.syms, codewords, Function.comp_def]

theorem syms_length_pos (n : Node) : 0 < n.syms.length := by
  induction n with
  | leaf b w => simp
  | internal w l r ihl _ =>
    rw [syms_internal, List.length_append]
    omega
  | synthetic w l ih => rwa [syms_synthetic]

theorem mem_syms_iff (n : Node) (b : Byte) : b ∈ n.syms ↔ ∃ cw, (b, cw) ∈ codewords n := by
  simp [Node.syms]

/-- No node of the tree is a synthetic root. -/
def Node.Branching : Node → Prop
  | .leaf _ _ => True
  | .internal _ l r => l.Branching ∧ r.Branching
  | .synthetic _ _ => False

/-! ## The leaves of a table -/

/-- The leaves of the weights `freq` of the byte values from `b` on. -/
def leavesFrom (b : Nat) (freq : List Nat) : List Node :=
  ((List.range freq.length).filter (fun x => decide (0 < freq.getD x 0))).map
    (fun x => .leaf (BitVec.ofNat 8 (b + x)) (freq.getD x 0))

theorem leavesOf_eq_leavesFrom (freq : List Nat) : leavesOf freq = leavesFrom 0 freq := by
  simp [leavesOf, leavesFrom]

theorem leavesFrom_cons (b w : Nat) (freq : List Nat) :
    leavesFrom b (w :: freq) = (if 0 < w then [.leaf (BitVec.ofNat 8 b) w] else []) ++ leavesFrom (b + 1) freq := by
  have hshift : ∀ x, b + 1 + x = b + (x + 1) := by omega
  rw [leavesFrom, leavesFrom, List.length_cons, List.range_succ_eq_map, List.filter_cons, List.filter_map]
  simp only [hshift, List.getD_cons_zero, decide_eq_true_eq]
  split_ifs
  · rw [List.map_cons, List.map_map]
    rfl
  · rw [List.map_map]
    rfl

theorem mem_leavesOf_iff (freq : List Nat) (n : Node) :
    n ∈ leavesOf freq ↔ ∃ b, b < freq.length ∧ 0 < freq.getD b 0 ∧ n = .leaf (BitVec.ofNat 8 b) (freq.getD b 0) := by
  simp only [leavesOf, List.mem_map, List.mem_filter, List.mem_range, decide_eq_true_eq]
  grind

theorem leavesOf_length_le (freq : List Nat) : (leavesOf freq).length ≤ freq.length := by
  rw [leavesOf, List.length_map]
  exact (List.length_filter_le _ _).trans_eq List.length_range

theorem leavesOf_flatMap_syms_length (freq : List Nat) :
    ((leavesOf freq).flatMap Node.syms).length = (leavesOf freq).length := by
  simp [leavesOf, List.flatMap_map]

theorem leavesOf_eq_nil {freq : List Nat} (h : ∀ b, freq.getD b 0 = 0) : leavesOf freq = [] :=
  List.eq_nil_iff_forall_not_mem.mpr fun n hn => by
    obtain ⟨b, -, hpos, -⟩ := (mem_leavesOf_iff freq n).mp hn
    rw [h b] at hpos
    exact Nat.lt_irrefl 0 hpos

theorem leavesOf_eq_singleton {freq : List Nat} {b : Nat} (hb : b < freq.length) (hpos : 0 < freq.getD b 0)
    (hzero : ∀ x, x ≠ b → freq.getD x 0 = 0) : leavesOf freq = [.leaf (BitVec.ofNat 8 b) (freq.getD b 0)] := by
  have hfilter : (List.range freq.length).filter (fun x => decide (0 < freq.getD x 0)) = [b] := by
    have hiff : ∀ x ∈ List.range freq.length, decide (0 < freq.getD x 0) = (x == b) := by
      intro x _
      by_cases hx : x = b
      · simpa [hx] using hpos
      · rw [hzero x hx, beq_false_of_ne hx]
        rfl
    rw [List.filter_congr hiff, List.filter_beq, List.count_eq_one_of_mem List.nodup_range (List.mem_range.mpr hb)]
    rfl
  rw [leavesOf, hfilter]
  rfl

theorem insertLeaves_perm (h : Heap) (b : Nat) (freq : List Nat) :
    (insertLeaves h b freq).Perm (leavesFrom b freq ++ h) := by
  induction freq generalizing h b with
  | nil => exact .refl h
  | cons w freq ih =>
    rw [insertLeaves, leavesFrom_cons]
    refine (ih _ _).trans ?_
    by_cases hw : 0 < w
    · rw [if_pos hw, if_pos hw]
      exact ((heapInsert_perm h _).append_left _).trans List.perm_middle
    · rw [if_neg hw, if_neg hw, List.nil_append]

theorem insertLeaves_ordered {h : Heap} (ho : HeapOrdered h) (b : Nat) (freq : List Nat) :
    HeapOrdered (insertLeaves h b freq) := by
  induction freq generalizing h b with
  | nil => exact ho
  | cons w freq ih =>
    refine ih ?_ _
    split_ifs
    · exact heapInsert_ordered ho _
    · exact ho

theorem leafHeap_ordered (freq : List Nat) : HeapOrdered (leafHeap freq) :=
  insertLeaves_ordered (fun _ hi => absurd hi (Nat.not_lt_zero _)) 0 freq

theorem leafHeap_perm (freq : List Nat) : (leafHeap freq).Perm (leavesOf freq) := by
  rw [leavesOf_eq_leavesFrom, ← List.append_nil (leavesFrom 0 freq)]
  exact insertLeaves_perm [] 0 freq

/-! ## The merging loop -/

theorem exists_heapExtract {h : Heap} (hne : h ≠ []) : ∃ n rest, heapExtract h = some (n, rest) := by
  match h with
  | [_] => exact ⟨_, _, rfl⟩
  | _ :: _ :: _ => exact ⟨_, _, rfl⟩

theorem mergeLoop_last {h : Heap} {a : Node} (he : heapExtract h = some (a, [])) (k : Nat) :
    mergeLoop (k + 1) h = some a := by
  rw [mergeLoop, he]
  rfl

theorem mergeLoop_two {h h1 h2 : Heap} {a b : Node} (he : heapExtract h = some (a, h1))
    (he1 : heapExtract h1 = some (b, h2)) (k : Nat) :
    mergeLoop (k + 1) h = mergeLoop k (heapInsert h2 (.internal (a.weight + b.weight) a b)) := by
  rw [mergeLoop, he]
  simp only [he1]

/-- Merging leaves one tree over the symbols of all the nodes. -/
theorem mergeLoop_spec {h : Heap} {k : Nat} (hne : h ≠ []) (hk : h.length ≤ k) :
    ∃ root, mergeLoop k h = some root ∧ root.syms.Perm (h.flatMap Node.syms) ∧
      ((∀ n ∈ h, n.Branching) → root.Branching) := by
  induction k generalizing h with
  | zero => exact absurd (List.length_eq_zero_iff.mp (Nat.le_zero.mp hk)) hne
  | succ k ih =>
    obtain ⟨a, h1, he⟩ := exists_heapExtract hne
    have hperm := heapExtract_perm he
    by_cases h1nil : h1 = []
    · subst h1nil
      refine ⟨a, mergeLoop_last he k, ?_, fun hb => hb a (hperm.mem_iff.mpr (List.mem_singleton.mpr rfl))⟩
      simpa using (hperm.flatMap_right Node.syms).symm
    · obtain ⟨b, h2, he1⟩ := exists_heapExtract h1nil
      have hperm2 : h.Perm (a :: b :: h2) := hperm.trans ((heapExtract_perm he1).cons a)
      have hins := heapInsert_perm h2 (.internal (a.weight + b.weight) a b)
      have hlen : (heapInsert h2 (.internal (a.weight + b.weight) a b)).length + 1 = h.length := by
        rw [hins.length_eq, hperm2.length_eq]
        rfl
      have hne' : heapInsert h2 (.internal (a.weight + b.weight) a b) ≠ [] :=
        fun hnil => List.cons_ne_nil _ _ (List.nil_perm.mp (hnil ▸ hins))
      obtain ⟨root, hroot, hsyms, hbranch⟩ := ih hne' (by omega)
      refine ⟨root, (mergeLoop_two he he1 k).trans hroot, ?_, fun hb => hbranch fun n hn => ?_⟩
      · refine hsyms.trans ((hins.flatMap_right Node.syms).trans ?_)
        simpa using (hperm2.flatMap_right Node.syms).symm
      · obtain rfl | hn := List.mem_cons.mp (hins.mem_iff.mp hn)
        · exact ⟨hb a (hperm2.mem_iff.mpr (by simp)), hb b (hperm2.mem_iff.mpr (by simp))⟩
        · exact hb n (hperm2.mem_iff.mpr (by simp [hn]))

/-! ## The built tree -/

theorem buildTree_of_no_leaf {freq : List Nat} (h : leavesOf freq = []) : buildTree freq = none := by
  have hheap : leafHeap freq = [] := List.perm_nil.mp (h ▸ leafHeap_perm freq)
  rw [buildTree, hheap]

theorem buildTree_of_one_leaf {freq : List Nat} {l : Node} (h : leavesOf freq = [l]) :
    buildTree freq = some (.synthetic l.weight l) := by
  have hheap : leafHeap freq = [l] := List.perm_singleton.mp (h ▸ leafHeap_perm freq)
  rw [buildTree, hheap]

theorem buildTree_of_leaves {freq : List Nat} (h : 2 ≤ (leavesOf freq).length) :
    buildTree freq = mergeLoop (leavesOf freq).length (leafHeap freq) := by
  rw [← (leafHeap_perm freq).length_eq] at h ⊢
  rw [buildTree]
  split
  · rename_i hnil
    simp [hnil] at h
  · rename_i hone
    simp [hone] at h
  · rfl

/-- A root that `BuildTree` gives (R204): a synthetic one over a single leaf, or the last node merged. -/
inductive Node.IsRoot : Node → Prop
  | single (b : Byte) (w : Nat) : IsRoot (.synthetic w (.leaf b w))
  | merged (w : Nat) {l r : Node} (hl : l.Branching) (hr : r.Branching) : IsRoot (.internal w l r)

/-- What `BuildTree` gives: no tree for a table without leaves, and otherwise a root over the table's leaves. -/
theorem buildTree_cases (freq : List Nat) :
    (leavesOf freq = [] ∧ buildTree freq = none) ∨
      ∃ root, buildTree freq = some root ∧ root.IsRoot ∧ root.syms.Perm ((leavesOf freq).flatMap Node.syms) := by
  have hleaf : ∀ n ∈ leavesOf freq, ∃ b w, n = .leaf b w := by
    intro n hn
    obtain ⟨b, -, -, rfl⟩ := (mem_leavesOf_iff freq n).mp hn
    exact ⟨_, _, rfl⟩
  match hl : leavesOf freq with
  | [] => exact .inl ⟨rfl, buildTree_of_no_leaf hl⟩
  | [l] =>
    obtain ⟨b, w, rfl⟩ := hleaf l (by simp [hl])
    exact .inr ⟨_, buildTree_of_one_leaf hl, .single b w, by simp⟩
  | l :: l' :: rest =>
    have hlen : 2 ≤ (leavesOf freq).length := by simp [hl]
    have hheap := leafHeap_perm freq
    obtain ⟨root, hroot, hsyms, hbranch⟩ := mergeLoop_spec (h := leafHeap freq)
      (List.ne_nil_of_length_pos (by rw [hheap.length_eq]; omega)) hheap.length_eq.le
    have hb : root.Branching := hbranch fun n hn => by
      obtain ⟨b, w, rfl⟩ := hleaf n (hheap.mem_iff.mp hn)
      trivial
    have hperm := hsyms.trans (hheap.flatMap_right Node.syms)
    refine .inr ⟨root, (buildTree_of_leaves hlen).trans hroot, ?_, hl ▸ hperm⟩
    cases root with
    | leaf b w =>
      have := hperm.length_eq
      rw [leavesOf_flatMap_syms_length, syms_leaf, List.length_singleton] at this
      omega
    | internal w l r => exact .merged w hb.1 hb.2
    | synthetic w l => exact hb.elim

theorem buildTree_spec {freq : List Nat} {root : Node} (h : buildTree freq = some root) :
    root.IsRoot ∧ root.syms.Perm ((leavesOf freq).flatMap Node.syms) := by
  obtain ⟨-, hnone⟩ | ⟨root', hsome, hspec⟩ := buildTree_cases freq
  · cases hnone.symm.trans h
  · cases hsome.symm.trans h
    exact hspec

/-- A tree has no more symbols than its table has entries. -/
theorem buildTree_syms_length_le {freq : List Nat} {root : Node} (h : buildTree freq = some root) :
    root.syms.length ≤ freq.length := by
  obtain ⟨-, hperm⟩ := buildTree_spec h
  rw [hperm.length_eq, leavesOf_flatMap_syms_length]
  exact leavesOf_length_le freq

/-! ## Codewords -/

theorem mem_codewords_internal {w : Nat} {l r : Node} {p : Byte × List Bool} :
    p ∈ codewords (.internal w l r) ↔
      (∃ b cw, (b, cw) ∈ codewords l ∧ p = (b, false :: cw)) ∨
        ∃ b cw, (b, cw) ∈ codewords r ∧ p = (b, true :: cw) := by
  simp [codewords, eq_comm]

theorem mem_codewords_synthetic {w : Nat} {l : Node} {p : Byte × List Bool} :
    p ∈ codewords (.synthetic w l) ↔ ∃ b cw, (b, cw) ∈ codewords l ∧ p = (b, false :: cw) := by
  simp [codewords, eq_comm]

/-- Only a leaf's own codeword starts with its codeword (R205): two leaves part at the node where one lies left and the other
right. -/
theorem eq_of_codeword_prefix {n : Node} {b c : Byte} {cw cw' : List Bool} (hp : (b, cw) ∈ codewords n)
    (hq : (c, cw') ∈ codewords n) (h : cw <+: cw') : (b, cw) = (c, cw') := by
  induction n generalizing b c cw cw' with
  | leaf a w => rw [List.mem_singleton.mp hp, List.mem_singleton.mp hq]
  | internal w l r ihl ihr =>
    obtain ⟨_, x, hx, hp⟩ | ⟨_, x, hx, hp⟩ := mem_codewords_internal.mp hp <;>
      obtain ⟨_, y, hy, hq⟩ | ⟨_, y, hy, hq⟩ := mem_codewords_internal.mp hq <;>
      cases hp <;> cases hq <;> simp only [List.cons_prefix_cons, reduceCtorEq, false_and, true_and] at h
    · cases ihl hx hy h
      rfl
    · cases ihr hx hy h
      rfl
  | synthetic w l ih =>
    obtain ⟨_, x, hx, hp⟩ := mem_codewords_synthetic.mp hp
    obtain ⟨_, y, hy, hq⟩ := mem_codewords_synthetic.mp hq
    cases hp
    cases hq
    cases ih hx hy (List.cons_prefix_cons.mp h).2
    rfl

/-- Each step down a merged tree leaves at least one leaf behind. -/
theorem codeword_length_lt {n : Node} (hn : n.Branching) {b : Byte} {cw : List Bool} (hp : (b, cw) ∈ codewords n) :
    cw.length < n.syms.length := by
  induction n generalizing b cw with
  | leaf c w =>
    cases List.mem_singleton.mp hp
    simp
  | internal w l r ihl ihr =>
    obtain ⟨hl, hr⟩ := hn
    have hlpos := syms_length_pos l
    have hrpos := syms_length_pos r
    rw [syms_internal, List.length_append]
    obtain ⟨c, cw', hp', heq⟩ | ⟨c, cw', hp', heq⟩ := mem_codewords_internal.mp hp <;> cases heq <;>
      rw [List.length_cons]
    · have := ihl hl hp'
      omega
    · have := ihr hr hp'
      omega
  | synthetic w l ih => exact hn.elim

theorem codeword_length_bounds {freq : List Nat} {root : Node} (hfreq : freq.length = 256) (h : buildTree freq = some root)
    {p : Byte × List Bool} (hp : p ∈ codewords root) : 1 ≤ p.2.length ∧ p.2.length ≤ 255 := by
  obtain ⟨hroot, -⟩ := buildTree_spec h
  have hle := buildTree_syms_length_le h
  cases hroot with
  | single b w =>
    cases List.mem_singleton.mp hp
    simp
  | merged w hl hr =>
    have hlt := codeword_length_lt (n := .internal w _ _) ⟨hl, hr⟩ hp
    obtain ⟨b, cw, -, rfl⟩ | ⟨b, cw, -, rfl⟩ := mem_codewords_internal.mp hp <;>
      exact ⟨Nat.succ_pos _, by omega⟩

/-- Settles O57. -/
theorem codewordsArePrefixFree : Obligations.CodewordsArePrefixFree := by
  refine ⟨fun h n => ⟨rfl, heapInsert_of_le⟩,
    fun h k i => ⟨siftUp_stop (.inl rfl) k, fun hle => siftUp_stop (.inr hle) k, fun hi hlt => siftUp_swap hi hlt k⟩,
    ⟨rfl, fun _ => rfl, heapExtract_append_singleton⟩,
    fun h k i => ⟨fun hl hr => siftDown_stop (siftChoice_self hl hr) k,
      fun hl hlt hr => siftDown_swap (siftChoice_left hl hlt hr) (by omega) k,
      fun hr hlt hl => siftDown_swap (siftChoice_right hr hlt hl) (by omega) k⟩,
    fun h i j x hi hj => heapSwap_getElem? hi hj x, fun b w l r => ⟨rfl, rfl, rfl⟩,
    fun h n ho => ⟨heapInsert_ordered ho n, heapInsert_perm h n⟩,
    fun h rest n ho he => ⟨heapExtract_least ho he, heapExtract_ordered ho he, heapExtract_perm he⟩,
    fun freq => ⟨leafHeap_ordered freq, leafHeap_perm freq, buildTree_of_no_leaf, buildTree_of_leaves⟩,
    fun k h h1 h2 a b he => ⟨fun hnil => mergeLoop_last (hnil ▸ he) k, fun he1 => mergeLoop_two he he1 k⟩,
    fun freq b hb _ hpos hzero => ?_, fun freq root hfreq hroot => ⟨fun p hp q hq hne hpre => ?_, fun p hp => ?_⟩⟩
  · rw [buildTree_of_one_leaf (leavesOf_eq_singleton hb hpos hzero)]
    rfl
  · exact hne (eq_of_codeword_prefix hp hq hpre)
  · exact codeword_length_bounds hfreq hroot hp

end Sys2Proof.Machine
end

section
/-!
PROOFS of the Huffman family (42_huffman.md), the artifact: its header (R200) and its body's bits (R206), the length that
follows, and the codeword lengths beside the table (R211).
-/

namespace Sys2Proof.Machine

/-! ## The bits of a body -/

/-- Bit `k` of a bit string's value is its `k`-th bit from the end. -/
theorem testBit_valueOfBits (bits : List Bool) (k : Nat) :
    (valueOfBits bits).testBit k = (bits.reverse[k]?).getD false := by
  induction bits using List.reverseRecOn generalizing k with
  | nil => simp [valueOfBits]
  | append_singleton bits b ih =>
    have hval : valueOfBits (bits ++ [b]) = Nat.bit b (valueOfBits bits) := by
      simp [valueOfBits, Nat.bit_val]
    rw [hval, List.reverse_append, List.reverse_singleton, List.singleton_append]
    cases k with
    | zero => rw [Nat.testBit_bit_zero, List.getElem?_cons_zero, Option.getD_some]
    | succ k => rw [Nat.testBit_bit_succ, ih, List.getElem?_cons_succ]

/-- Byte `j` of a bit string is made of its bits from `8 * j` on. -/
theorem bytesOfBits_getD {bits : List Bool} {j : Nat} (hj : j < bits.length / 8) :
    (bytesOfBits bits).getD j 0#8 = BitVec.ofNat 8 (valueOfBits ((bits.drop (8 * j)).take 8)) := by
  simp [bytesOfBits, List.getD, hj]

/-- A bit string of whole bytes is what its bytes hold (R206). -/
theorem bitsOfBytes_bytesOfBits {bits : List Bool} (h : 8 ∣ bits.length) : bitsOfBytes (bytesOfBits bits) = bits := by
  have hlen : 8 * (bytesOfBits bits).length = bits.length := by
    rw [bytesOfBits_length]
    exact Nat.mul_div_cancel' h
  refine List.ext_getElem? fun k => ?_
  obtain hk | hk := Nat.lt_or_ge k bits.length
  · have height : ((bits.drop (8 * (k / 8))).take 8).length = 8 := by
      rw [List.length_take, List.length_drop]
      omega
    rw [bitsOfBytes_getElem? _ (by omega), bytesOfBits_getD (by omega), BitVec.getLsbD_ofNat, testBit_valueOfBits,
      decide_eq_true (by omega), Bool.true_and, List.getElem?_reverse (by omega), height,
      show 8 - 1 - (7 - k % 8) = k % 8 by omega, List.getElem?_take_of_lt (by omega), List.getElem?_drop,
      Nat.div_add_mod, List.getElem?_eq_getElem hk, Option.getD_some]
  · rw [List.getElem?_eq_none hk, List.getElem?_eq_none (by rw [bitsOfBytes_length]; omega)]

theorem eight_dvd_padToByte_length (bits : List Bool) : 8 ∣ (padToByte bits).length :=
  ⟨_, padToByte_length bits⟩

/-! ## The parts of an artifact -/

@[simp] theorem frequencies_length (src : Bytes) : (frequencies src).length = 256 := by simp [frequencies]

theorem frequencies_getD (src : Bytes) {b : Nat} (hb : b < 256) :
    (frequencies src).getD b 0 = src.count (BitVec.ofNat 8 b) := by
  simp [frequencies, List.getD, hb]

theorem artifact_drop (src body : Bytes) (table : List (Byte × List Bool)) :
    (huffHeader src table ++ body).drop 1284 = body :=
  List.drop_left' (huffHeader_length src table)

theorem artifact_take {src : Bytes} (h : src.length < 2 ^ 32) (body : Bytes) (table : List (Byte × List Bool)) :
    be ((huffHeader src table ++ body).take 4) = src.length := by
  rw [huffHeader, List.append_assoc, List.append_assoc, List.take_left' (toBe_length 4 _), be_toBe]
  exact Nat.mod_eq_of_lt h

theorem artifact_getD (src body : Bytes) (table : List (Byte × List Bool)) {b : Nat} (hb : b < 256) :
    (huffHeader src table ++ body).getD (4 + b) 0#8 = BitVec.ofNat 8 (codewordOf table (BitVec.ofNat 8 b)).length := by
  rw [huffHeader, List.append_assoc, List.append_assoc, List.getD, List.getElem?_append_right (by simp),
    toBe_length, Nat.add_sub_cancel_left, List.getElem?_append_left (by simpa using hb)]
  simp [hb]

/-- Counts of 32 bits are read back as written (R200). -/
theorem be32Table_flatMap_toBe {freq : List Nat} (h : ∀ f ∈ freq, f < 2 ^ 32) (rest : Bytes) :
    be32Table freq.length (freq.flatMap (toBe 4) ++ rest) = freq := by
  induction freq with
  | nil => rfl
  | cons f freq ih =>
    obtain ⟨hf, hfreq⟩ := List.forall_mem_cons.mp h
    rw [List.flatMap_cons, List.append_assoc, List.length_cons, be32Table, List.take_left' (toBe_length 4 f),
      List.drop_left' (toBe_length 4 f), be_toBe, ih hfreq]
    exact congrArg (· :: freq) (Nat.mod_eq_of_lt hf)

theorem frequencies_lt {src : Bytes} (h : src.length < 2 ^ 32) : ∀ f ∈ frequencies src, f < 2 ^ 32 := by
  intro f hf
  obtain ⟨b, -, rfl⟩ := List.mem_map.mp hf
  exact Nat.lt_of_le_of_lt List.count_le_length h

theorem artifactFreq_artifact {src : Bytes} (h : src.length < 2 ^ 32) (body : Bytes) (table : List (Byte × List Bool)) :
    artifactFreq (huffHeader src table ++ body) = frequencies src := by
  rw [artifactFreq, huffHeader, List.append_assoc, List.drop_left' (by simp), ← frequencies_length src]
  exact be32Table_flatMap_toBe (frequencies_lt h) body

/-! ## The codeword of a byte value -/

theorem mem_of_lookup_eq_some {table : List (Byte × List Bool)} {b : Byte} {cw : List Bool}
    (h : table.lookup b = some cw) : (b, cw) ∈ table := by
  obtain ⟨l₁, l₂, rfl, -⟩ := List.lookup_eq_some_iff.mp h
  simp

/-- A byte value with a leaf has the codeword of one (R205). -/
theorem codewordOf_mem {table : List (Byte × List Bool)} {b : Byte} (h : ∃ cw, (b, cw) ∈ table) :
    (b, codewordOf table b) ∈ table := by
  cases hl : table.lookup b with
  | none =>
    obtain ⟨cw, hcw⟩ := h
    have := List.lookup_eq_none_iff.mp hl _ hcw
    simp at this
  | some cw =>
    rw [codewordOf, hl]
    exact mem_of_lookup_eq_some hl

/-- Every codeword length fits in a byte (R205). -/
theorem codewordOf_length_lt {freq : List Nat} (hfreq : freq.length = 256) (b : Byte) :
    (codewordOf (codeTable (buildTree freq)) b).length < 256 := by
  cases hl : (codeTable (buildTree freq)).lookup b with
  | none =>
    rw [codewordOf, hl]
    exact Nat.zero_lt_succ _
  | some cw =>
    have hmem := mem_of_lookup_eq_some hl
    rw [codewordOf, hl]
    cases hroot : buildTree freq with
    | none =>
      rw [hroot] at hmem
      cases hmem
    | some root =>
      rw [hroot] at hmem
      exact Nat.lt_succ_of_le (codeword_length_bounds hfreq hroot hmem).2

/-- Settles O56. -/
theorem huffHeaderContents : Obligations.HuffHeaderContents := by
  rintro src out hsrc ⟨rfl⟩
  refine ⟨artifact_take hsrc _ _, artifactFreq_artifact hsrc _ _, fun b hb => ?_⟩
  rw [artifact_getD src _ _ hb, artifactFreq_artifact hsrc, BitVec.toNat_ofNat]
  exact Nat.mod_eq_of_lt (codewordOf_length_lt (frequencies_length src) _)

/-! ## The length of an artifact -/

/-- A sum over the bytes of a sequence is one over the byte values, each as often as it occurs. -/
theorem sum_map_eq_sum_count (src : Bytes) (f : Byte → Nat) :
    (src.map f).sum = ((List.range 256).map (fun b => src.count (BitVec.ofNat 8 b) * f (BitVec.ofNat 8 b))).sum := by
  have hinj : Set.InjOn (BitVec.ofNat 8) (Finset.range 256) := by
    intro a ha b hb h
    have hmod : a % 256 = b % 256 := congrArg BitVec.toNat h
    rwa [Nat.mod_eq_of_lt (Finset.mem_range.mp ha), Nat.mod_eq_of_lt (Finset.mem_range.mp hb)] at hmod
  calc (src.map f).sum = ∑ c ∈ src.toFinset, src.count c * f c := Finset.sum_list_map_count src f
    _ = ∑ c ∈ (Finset.range 256).image (BitVec.ofNat 8), src.count c * f c := by
      refine Finset.sum_subset (fun c _ => ?_) (fun c _ hc => ?_)
      · exact Finset.mem_image.mpr ⟨c.toNat, Finset.mem_range.mpr c.isLt, by simp⟩
      · rw [List.count_eq_zero_of_not_mem (by simpa using hc), Nat.zero_mul]
    _ = ∑ b ∈ Finset.range 256, src.count (BitVec.ofNat 8 b) * f (BitVec.ofNat 8 b) := Finset.sum_image hinj
    _ = _ := rfl

theorem huffBits_length (src : Bytes) (table : List (Byte × List Bool)) :
    (huffBits src table).length = ((List.range 256).map (fun b =>
      (frequencies src).getD b 0 * (codewordOf table (BitVec.ofNat 8 b)).length)).sum := by
  rw [huffBits, List.length_flatMap, sum_map_eq_sum_count]
  refine congrArg List.sum (List.map_congr_left fun b hb => ?_)
  rw [frequencies_getD src (List.mem_range.mp hb)]

/-- The body's bits are the codewords of the original's bytes, then the padding (R206). -/
theorem artifact_body_bits (src : Bytes) (table : List (Byte × List Bool)) :
    ∃ n, n < 8 ∧ bitsOfBytes ((huffHeader src table ++ bytesOfBits (padToByte (huffBits src table))).drop 1284) =
      src.flatMap (codewordOf table) ++ List.replicate n false := by
  rw [artifact_drop, bitsOfBytes_bytesOfBits (eight_dvd_padToByte_length _)]
  exact ⟨_, Nat.mod_lt _ (by decide), rfl⟩

/-- Settles O55. -/
theorem huffArtifactLength : Obligations.HuffArtifactLength := by
  rintro src out ⟨rfl⟩
  refine ⟨artifact_body_bits src _, ?_⟩
  rw [List.length_append, huffHeader_length, bytesOfBits_length, padToByte_length, huffBits_length,
    Nat.mul_div_cancel_left _ (by decide)]

end Sys2Proof.Machine
end

section
/-!
PROOFS of the Huffman family (42_huffman.md), decompression: what a walk of the tree and the loop over the output do with a body
of codewords (R209), what the code_len table leaves unchanged (R211), and that decompression undoes compression (R210).
-/

namespace Sys2Proof.Machine

/-! ## One walk -/

/-- A walk over a leaf's codeword answers the leaf's symbol. -/
theorem walkTree_codeword {n : Node} {b : Byte} {cw : List Bool} (h : (b, cw) ∈ codewords n) (rest : List Bool) :
    walkTree n (cw ++ rest) = .symbol b rest := by
  induction n generalizing cw with
  | leaf c w =>
    cases List.mem_singleton.mp h
    rfl
  | internal w l r ihl ihr =>
    obtain ⟨_, x, hx, h⟩ | ⟨_, x, hx, h⟩ := mem_codewords_internal.mp h <;> cases h
    · exact ihl hx
    · exact ihr hx
  | synthetic w l ih =>
    obtain ⟨_, x, hx, h⟩ := mem_codewords_synthetic.mp h
    cases h
    exact ih hx

/-- A walk over a proper start of a codeword runs out of bits. -/
theorem walkTree_exhausted {n : Node} {b : Byte} {cw bits : List Bool} (h : (b, cw) ∈ codewords n) (hpre : bits <+: cw)
    (hne : bits ≠ cw) : walkTree n bits = .failed .huffBitsExhausted := by
  induction n generalizing cw bits with
  | leaf c w =>
    cases List.mem_singleton.mp h
    exact absurd (List.prefix_nil.mp hpre) hne
  | internal w l r ihl ihr =>
    cases bits with
    | nil => rfl
    | cons bit bits =>
      obtain ⟨_, x, hx, h⟩ | ⟨_, x, hx, h⟩ := mem_codewords_internal.mp h <;> cases h <;>
        obtain ⟨rfl, hbits⟩ := List.cons_prefix_cons.mp hpre
      · exact ihl hx hbits (fun heq => hne (heq ▸ rfl))
      · exact ihr hx hbits (fun heq => hne (heq ▸ rfl))
  | synthetic w l ih =>
    cases bits with
    | nil => rfl
    | cons bit bits =>
      obtain ⟨_, x, hx, h⟩ := mem_codewords_synthetic.mp h
      cases h
      obtain ⟨rfl, hbits⟩ := List.cons_prefix_cons.mp hpre
      exact ih hx hbits (fun heq => hne (heq ▸ rfl))

/-- A walk fails only for want of bits or off the tree (R209). -/
theorem walkTree_failed {n : Node} {bits : List Bool} {d : Detail} (h : walkTree n bits = .failed d) :
    d = .huffBitsExhausted ∨ d = .huffOffTree := by
  induction n generalizing bits with
  | leaf c w => cases h
  | internal w l r ihl ihr =>
    match bits, h with
    | [], h => cases h; exact .inl rfl
    | true :: _, h => exact ihr h
    | false :: _, h => exact ihl h
  | synthetic w l ih =>
    match bits, h with
    | [], h => cases h; exact .inl rfl
    | true :: _, h => cases h; exact .inr rfl
    | false :: _, h => exact ih h

/-- Only the tree of a table of one symbol has an absent child: a 1 bit falls off it. -/
theorem walkTree_single {root : Node} (hroot : root.IsRoot) (hone : (codewords root).length = 1) (rest : List Bool) :
    walkTree root (true :: rest) = .failed .huffOffTree := by
  cases hroot with
  | single b w => rfl
  | @merged w l r _ _ =>
    have hl := syms_length_pos l
    have hr := syms_length_pos r
    have hsyms : (Node.internal w l r).syms.length = 1 := (List.length_map _).trans hone
    rw [syms_internal, List.length_append] at hsyms
    omega

/-! ## The loop -/

theorem huffDecodeLoop_failed {root : Node} {bits : List Bool} {d : Detail} (h : walkTree root bits = .failed d) (n : Nat) :
    huffDecodeLoop root (n + 1) bits = .error d := by
  rw [huffDecodeLoop, h]

theorem huffDecodeLoop_symbol {root : Node} {bits rest : List Bool} {b : Byte} (h : walkTree root bits = .symbol b rest)
    (n : Nat) : huffDecodeLoop root (n + 1) bits = (huffDecodeLoop root n rest).prepend [b] := by
  rw [huffDecodeLoop, h]
  dsimp only
  cases huffDecodeLoop root n rest <;> rfl

/-- The loop reads codewords as their symbols and goes on with what follows. -/
theorem huffDecodeLoop_codewords {root : Node} {out : Bytes} (h : ∀ b ∈ out, ∃ cw, (b, cw) ∈ codewords root) (n : Nat)
    (rest : List Bool) :
    huffDecodeLoop root (out.length + n) (out.flatMap (codewordOf (codewords root)) ++ rest) =
      (huffDecodeLoop root n rest).prepend out := by
  induction out with
  | nil =>
    rw [List.length_nil, Nat.zero_add, List.flatMap_nil, List.nil_append]
    cases huffDecodeLoop root n rest <;> rfl
  | cons b out ih =>
    obtain ⟨hb, hout⟩ := List.forall_mem_cons.mp h
    rw [List.length_cons, Nat.add_right_comm, List.flatMap_cons, List.append_assoc,
      huffDecodeLoop_symbol (walkTree_codeword (codewordOf_mem hb) _), ih hout]
    cases huffDecodeLoop root n rest <;> rfl

/-- The loop answers as many bytes as it is asked for, or fails as a walk does. -/
theorem huffDecodeLoop_cases (root : Node) (n : Nat) (bits : List Bool) :
    (∃ out, huffDecodeLoop root n bits = .ok out ∧ out.length = n) ∨
      ∃ d, huffDecodeLoop root n bits = .error d ∧ (d = .huffBitsExhausted ∨ d = .huffOffTree) := by
  induction n generalizing bits with
  | zero => exact .inl ⟨[], rfl, rfl⟩
  | succ n ih =>
    cases hw : walkTree root bits with
    | failed d => exact .inr ⟨d, huffDecodeLoop_failed hw n, walkTree_failed hw⟩
    | symbol b rest =>
      rw [huffDecodeLoop_symbol hw]
      obtain ⟨out, ho, hl⟩ | ⟨d, hd, hcause⟩ := ih rest
      · exact .inl ⟨b :: out, by rw [ho]; rfl, by rw [List.length_cons, hl]⟩
      · exact .inr ⟨d, by rw [hd]; rfl, hcause⟩

/-! ## A whole artifact -/

theorem huffDecompress_of_truncated {src : Bytes} (h : src.length < 1284) :
    huffDecompress src = .error .huffHeaderTruncated := if_pos h

theorem huffDecompress_of_empty {src : Bytes} (h : 1284 ≤ src.length) (h0 : be (src.take 4) = 0) :
    huffDecompress src = .ok [] := by
  rw [huffDecompress, if_neg (by omega), if_pos h0]

theorem huffDecompress_of_no_tree {src : Bytes} (h : 1284 ≤ src.length) (h0 : be (src.take 4) ≠ 0)
    (ht : buildTree (artifactFreq src) = none) : huffDecompress src = .error .huffEmptyTree := by
  rw [huffDecompress, if_neg (by omega), if_neg h0, ht]

theorem huffDecompress_of_tree {src : Bytes} {root : Node} (h : 1284 ≤ src.length) (h0 : be (src.take 4) ≠ 0)
    (ht : buildTree (artifactFreq src) = some root) :
    huffDecompress src = huffDecodeLoop root (be (src.take 4)) (bitsOfBytes (src.drop 1284)) := by
  rw [huffDecompress, if_neg (by omega), if_neg h0, ht]

/-- A decompression answers as many bytes as the artifact records, or fails with one of the four FORMAT errors (R208). -/
theorem huffDecompress_cases (src : Bytes) :
    (∃ out, huffDecompress src = .ok out ∧ out.length = be (src.take 4)) ∨
      ∃ d, huffDecompress src = .error d ∧
        (d = .huffHeaderTruncated ∨ d = .huffEmptyTree ∨ d = .huffBitsExhausted ∨ d = .huffOffTree) := by
  obtain h | h := Nat.lt_or_ge src.length 1284
  · exact .inr ⟨_, huffDecompress_of_truncated h, .inl rfl⟩
  by_cases h0 : be (src.take 4) = 0
  · exact .inl ⟨[], huffDecompress_of_empty h h0, h0.symm⟩
  cases ht : buildTree (artifactFreq src) with
  | none => exact .inr ⟨_, huffDecompress_of_no_tree h h0 ht, .inr (.inl rfl)⟩
  | some root =>
    rw [huffDecompress_of_tree h h0 ht]
    obtain hok | ⟨d, hd, hcause⟩ := huffDecodeLoop_cases root (be (src.take 4)) (bitsOfBytes (src.drop 1284))
    · exact .inl hok
    · exact .inr ⟨d, hd, .inr (.inr hcause)⟩

/-- Decompression reads the recorded length, the frequency table and the body, and nothing else of an artifact (R211). -/
theorem huffDecompress_congr {src src' : Bytes} (hlen : src.length = src'.length) (htake : src.take 4 = src'.take 4)
    (hdrop : src.drop 260 = src'.drop 260) : huffDecompress src = huffDecompress src' := by
  have hbody : src.drop 1284 = src'.drop 1284 := by
    have := congrArg (List.drop 1024) hdrop
    rwa [List.drop_drop, List.drop_drop] at this
  rw [huffDecompress, huffDecompress, hlen, htake, artifactFreq, artifactFreq, hdrop, hbody]

/-- Settles O59. -/
theorem huffDecompIgnoresCodeLengths : Obligations.HuffDecompIgnoresCodeLengths := by
  intro hd cl cl' rest hhd hcl hcl'
  have htake : ∀ c : Bytes, (hd ++ c ++ rest).take 4 = hd := fun c => by
    rw [List.append_assoc, List.take_left' hhd]
  have hdrop : ∀ c : Bytes, c.length = 256 → (hd ++ c ++ rest).drop 260 = rest := fun c hc =>
    List.drop_left' (by rw [List.length_append, hhd, hc])
  refine ⟨huffDecompress_congr (by simp [hcl, hcl']) (by rw [htake, htake]) (by rw [hdrop _ hcl, hdrop _ hcl']),
    fun out h => ?_⟩
  obtain ⟨out', hok, hlen⟩ | ⟨d, herr, -⟩ := huffDecompress_cases (hd ++ cl ++ rest)
  · cases hok.symm.trans h
    rw [hlen, htake]
  · cases herr.symm.trans h

/-! ## A body of codewords -/

section
variable {src out : Bytes} {root : Node} {rest : List Bool} (h : 1284 ≤ src.length) (h0 : be (src.take 4) ≠ 0)
  (ht : buildTree (artifactFreq src) = some root) (hmem : ∀ b ∈ out, ∃ cw, (b, cw) ∈ codewords root)
  (hbits : bitsOfBytes (src.drop 1284) = out.flatMap (codewordOf (codewords root)) ++ rest)
include h h0 ht hmem hbits

/-- The codewords of as many bytes as recorded decode to these, whatever follows. -/
theorem huffDecompress_of_codewords (hlen : out.length = be (src.take 4)) : huffDecompress src = .ok out := by
  rw [huffDecompress_of_tree h h0 ht, hbits, ← hlen, ← Nat.add_zero out.length, huffDecodeLoop_codewords hmem,
    huffDecodeLoop, prepend_ok, List.append_nil]

/-- After the codewords of fewer bytes than recorded, a walk that fails on the rest is the outcome. -/
theorem huffDecompress_of_failed_rest {d : Detail} (hlen : out.length < be (src.take 4))
    (hw : walkTree root rest = .failed d) : huffDecompress src = .error d := by
  obtain ⟨n, hn⟩ := Nat.exists_eq_add_of_lt hlen
  rw [huffDecompress_of_tree h h0 ht, hbits, hn, Nat.add_assoc, huffDecodeLoop_codewords hmem, huffDecodeLoop_failed hw,
    prepend_error]

end

/-! ## Decompression undoes compression -/

/-- Every byte of an original has a leaf in the tree of its frequencies. -/
theorem exists_tree_of_mem {x : Bytes} {b : Byte} (hb : b ∈ x) :
    ∃ root, buildTree (frequencies x) = some root ∧ b ∈ root.syms := by
  have hpos : 0 < (frequencies x).getD b.toNat 0 := by
    rw [frequencies_getD x b.isLt, BitVec.ofNat_toNat, BitVec.setWidth_eq]
    exact List.count_pos_iff.mpr hb
  have hleaf : Node.leaf b ((frequencies x).getD b.toNat 0) ∈ leavesOf (frequencies x) := by
    refine (mem_leavesOf_iff _ _).mpr ⟨b.toNat, (frequencies_length x).symm ▸ b.isLt, hpos, ?_⟩
    rw [BitVec.ofNat_toNat, BitVec.setWidth_eq]
  obtain ⟨hnil, -⟩ | ⟨root, hroot, -, hperm⟩ := buildTree_cases (frequencies x)
  · rw [hnil] at hleaf
    cases hleaf
  · exact ⟨root, hroot, hperm.mem_iff.mpr (List.mem_flatMap.mpr ⟨_, hleaf, List.mem_singleton.mpr rfl⟩)⟩

/-- Settles O58. -/
theorem huffmanRoundTrip : Obligations.HuffmanRoundTrip := by
  intro x hx
  refine ⟨_, rfl, ?_⟩
  have hlong (body : Bytes) (table : List (Byte × List Bool)) : 1284 ≤ (huffHeader x table ++ body).length := by
    rw [List.length_append, huffHeader_length]
    exact Nat.le_add_right _ _
  cases x with
  | nil => exact huffDecompress_of_empty (hlong _ _) (artifact_take hx _ _)
  | cons b rest =>
    obtain ⟨root, hroot, -⟩ := exists_tree_of_mem (List.mem_cons_self (a := b) (l := rest))
    obtain ⟨n, -, hbits⟩ := artifact_body_bits (b :: rest) (codewords root)
    have htable : codeTable (buildTree (frequencies (b :: rest))) = codewords root := by
      rw [hroot]
      rfl
    rw [htable]
    refine huffDecompress_of_codewords (hlong _ _) ?_ ((artifactFreq_artifact hx _ _).symm ▸ hroot) (fun c hc => ?_) hbits
      (artifact_take hx _ _).symm
    · rw [artifact_take hx]
      exact Nat.succ_ne_zero _
    · obtain ⟨root', hroot', hsym⟩ := exists_tree_of_mem hc
      cases hroot.symm.trans hroot'
      exact (mem_syms_iff root c).mp hsym

end Sys2Proof.Machine
end

section
/-!
PROOFS of the Huffman family (42_huffman.md), the two commands: HUFF_COMP commits its artifact where it fits (R207), and
HUFF_DECOMP what its body decodes to, or the FORMAT error whose condition holds (R208).
-/

namespace Sys2Proof.Machine

/-- Settles O24. -/
theorem huffCompResult : Obligations.HuffCompResult := by
  intro s src out hp hsrc hout
  have hf := fetchFor_codec_of_srcHolds (i := .huffComp) rfl hsrc
  refine ⟨?_, exec_completedOk (i := .huffComp) hp hf hout, exec_dstTooSmall (i := .huffComp) hp hf hout⟩
  cases hout
  rw [List.length_append, huffHeader_length]
  exact Nat.le_add_right _ _

/-- The counts of a table one by one (R200). -/
theorem be32Table_eq_map (n : Nat) (s : Bytes) :
    be32Table n s = (List.range n).map (fun b => be ((s.drop (4 * b)).take 4)) := by
  induction n generalizing s with
  | zero => rfl
  | succ n ih =>
    rw [be32Table, ih, List.range_succ_eq_map, List.map_cons, List.map_map]
    refine congrArg (_ :: ·) (List.map_congr_left fun b _ => ?_)
    rw [List.drop_drop, Function.comp_apply, Nat.mul_succ, Nat.add_comm]

theorem artifactFreq_eq_map (src : Bytes) :
    artifactFreq src = (List.range 256).map (fun b => be ((src.drop (260 + 4 * b)).take 4)) := by
  simp only [artifactFreq, be32Table_eq_map, List.drop_drop]

theorem buildTree_artifactFreq_of_zeros {src : Bytes} (h : ∀ b, b < 256 → be ((src.drop (260 + 4 * b)).take 4) = 0) :
    buildTree (artifactFreq src) = none := by
  refine buildTree_of_no_leaf (leavesOf_eq_nil fun b => ?_)
  obtain hb | hb := Nat.lt_or_ge b 256
  · simp [artifactFreq_eq_map, List.getD, hb, h b hb]
  · exact List.getD_eq_default _ _ (by rw [artifactFreq_eq_map, List.length_map, List.length_range]; exact hb)

/-- Settles O25. -/
theorem huffDecompResult : Obligations.HuffDecompResult := by
  intro s src hp hsrc
  have hf := fetchFor_codec_of_srcHolds (i := .huffDecomp) rfl hsrc
  have ok {out : Bytes} (h : huffDecompress src = .ok out) := exec_completedOk (i := .huffDecomp) hp hf h
  have small {out : Bytes} (h : huffDecompress src = .ok out) := exec_dstTooSmall (i := .huffDecomp) hp hf h
  have error {d : Detail} (h : huffDecompress src = .error d) := exec_completedError (i := .huffDecomp) hp hf h
  refine ⟨fun h => error (huffDecompress_of_truncated h),
    fun h h0 => ok (huffDecompress_of_empty h h0) (Nat.zero_le _),
    fun h h0 hz => error (huffDecompress_of_no_tree h h0 (buildTree_artifactFreq_of_zeros hz)), ?_,
    fun d h => ⟨?_, error h⟩, fun out h => ⟨ok h, small h⟩⟩
  · rintro root table out rest h h0 ht rfl hmem hbits
    rw [← artifactFreq_eq_map] at ht
    refine ⟨?_, fun hlt hone hhead => ?_, fun hlen => ok (huffDecompress_of_codewords h h0 ht hmem hbits hlen),
      fun hlen => small (huffDecompress_of_codewords h h0 ht hmem hbits hlen)⟩
    · rintro hlt ⟨p, hpt, hpre, hne⟩
      exact error (huffDecompress_of_failed_rest h h0 ht hmem hbits hlt (walkTree_exhausted hpt hpre hne))
    · obtain ⟨rest, rfl⟩ := List.head?_eq_some_iff.mp hhead
      obtain ⟨hroot, -⟩ := buildTree_spec ht
      exact error (huffDecompress_of_failed_rest h h0 ht hmem hbits hlt (walkTree_single hroot hone rest))
  · obtain ⟨out, hok, -⟩ | ⟨d', herr, hcause⟩ := huffDecompress_cases src
    · cases hok.symm.trans h
    · cases herr.symm.trans h
      exact hcause

end Sys2Proof.Machine
end

section
/-!
PROOFS of the Feistel family (43_feistel.md), the primitives by DES bit numbers (00_scope.md R11): what bit `j` of a permuted and
of a rotated value is.
-/

namespace Sys2Proof.Machine

/-! ## DES bits -/

/-- DES bits are the library's bits from the most significant end, counted from 1 (R11). -/
theorem dbit_eq_getMsbD {n : Nat} (v : BitVec n) {j : Nat} (h1 : 1 ≤ j) (hn : j ≤ n) : dbit v j = v.getMsbD (j - 1) := by
  rw [BitVec.getMsbD_eq_getLsbD, decide_eq_true (by omega), Bool.true_and, dbit, Nat.sub_sub, Nat.add_sub_cancel' h1]

theorem eq_of_dbit_eq {n : Nat} {v w : BitVec n} (h : ∀ j, 1 ≤ j → j ≤ n → dbit v j = dbit w j) : v = w :=
  BitVec.eq_of_getMsbD_eq fun i hi => by
    simpa [dbit_eq_getMsbD _ (Nat.le_add_left 1 i) hi] using h (i + 1) (Nat.le_add_left 1 i) hi

/-! ## Loops that put new bits below the bits they have (R241, R254) -/

/-- A loop whose round for `x` shifts the result up by `w` bits and puts `g x` below it. -/
def shiftIn {α : Type} {m : Nat} (w : Nat) (g : α → BitVec m) (acc : BitVec m) (l : List α) : BitVec m :=
  l.foldl (fun out x => (out <<< w) ||| g x) acc

section
variable {α : Type} {m w : Nat} {g : α → BitVec m} (hg : ∀ x i, w ≤ i → (g x).getLsbD i = false)
include hg

/-- The earlier bits move up by `w` in every round. -/
theorem shiftIn_getLsbD_add (acc : BitVec m) (l : List α) {i : Nat} (hi : w * l.length + i < m) :
    (shiftIn w g acc l).getLsbD (w * l.length + i) = acc.getLsbD i := by
  induction l generalizing acc i with
  | nil => simp [shiftIn]
  | cons x l ih =>
    rw [List.length_cons, Nat.mul_succ, Nat.add_assoc] at hi ⊢
    rw [shiftIn, List.foldl_cons, ← shiftIn, ih _ hi, BitVec.getLsbD_or, hg x (w + i) (Nat.le_add_right _ _)]
    simp [show w + i < m by omega, -BitVec.getLsbD_eq_getElem]

/-- The bits of entry `k` stand above those of the later entries. -/
theorem shiftIn_getLsbD (acc : BitVec m) {l : List α} {k b : Nat} (hk : k < l.length) (hb : b < w)
    (hm : w * (l.length - 1 - k) + b < m) :
    (shiftIn w g acc l).getLsbD (w * (l.length - 1 - k) + b) = (g l[k]).getLsbD b := by
  have hlen : l.length - 1 - k = (l.drop (k + 1)).length := by
    rw [List.length_drop, Nat.sub_sub, Nat.add_comm 1]
  have hsplit : shiftIn w g acc l = shiftIn w g (shiftIn w g acc (l.take k) <<< w ||| g l[k]) (l.drop (k + 1)) := by
    simp only [shiftIn, ← List.foldl_cons, ← List.foldl_append, ← List.drop_eq_getElem_cons hk, List.take_append_drop]
  rw [hlen] at hm ⊢
  rw [hsplit, shiftIn_getLsbD_add hg _ _ hm]
  simp [hb]

end

/-! ## Permutations (R241) -/

theorem perm_eq_shiftIn (m : Nat) (t : List Nat) {n : Nat} (v : BitVec n) :
    perm m t v = shiftIn 1 (fun k => (BitVec.ofBool (dbit v k)).setWidth m) 0#m t := rfl

theorem dbit_perm {n m : Nat} {t : List Nat} (v : BitVec n) {j : Nat} (ht : t.length = m) (h1 : 1 ≤ j) (hm : j ≤ m) :
    dbit (perm m t v) j = dbit v (t.getD (j - 1) 0) := by
  have hk : j - 1 < t.length := by omega
  have hg (k i : Nat) (hi : 1 ≤ i) : ((BitVec.ofBool (dbit v k)).setWidth m).getLsbD i = false := by
    simp [BitVec.getLsbD_setWidth, BitVec.getLsbD_ofBool, Nat.ne_of_gt hi]
  have hbit := shiftIn_getLsbD hg 0#m hk Nat.zero_lt_one (by omega)
  rw [show 1 * (t.length - 1 - (j - 1)) + 0 = m - j by omega] at hbit
  rw [dbit, perm_eq_shiftIn, hbit, List.getD_eq_getElem _ _ hk, BitVec.getLsbD_setWidth, BitVec.getLsbD_ofBool]
  simp [Nat.lt_of_lt_of_le h1 hm]

/-- Settles O43. -/
theorem permSelectsTableBits : Obligations.PermSelectsTableBits :=
  fun _ _ _ v _ ht _ h1 hm => dbit_perm v ht h1 hm

/-- A permuted value depends on the selected bits alone. -/
theorem perm_congr (m : Nat) {n : Nat} {t : List Nat} {v v' : BitVec n} (h : ∀ k ∈ t, dbit v k = dbit v' k) :
    perm m t v = perm m t v' :=
  List.foldl_ext _ _ _ fun out k hk => by rw [h k hk]

/-! ## Rotations (R244) -/

theorem rotl28_eq_rotateLeft (x : BitVec 28) {n : Nat} (hn : n < 28) : rotl28 x n = x.rotateLeft n := by
  rw [BitVec.rotateLeft_def, Nat.mod_eq_of_lt hn, rotl28]

theorem rotateLeft_zero {w : Nat} (x : BitVec w) : x.rotateLeft 0 = x :=
  BitVec.eq_of_getMsbD_eq fun i hi => by
    rw [BitVec.getMsbD_rotateLeft, decide_eq_true hi, Bool.true_and, Nat.zero_add, Nat.mod_eq_of_lt hi]

theorem rotateLeft_rotateLeft {w : Nat} (x : BitVec w) (a b : Nat) : (x.rotateLeft a).rotateLeft b = x.rotateLeft (a + b) := by
  refine BitVec.eq_of_getMsbD_eq fun i hi => ?_
  have hmod : (b + i) % w < w := Nat.mod_lt _ (by omega)
  simp only [BitVec.getMsbD_rotateLeft, hmod, decide_true, Bool.true_and, Nat.add_mod_mod, Nat.add_assoc]

theorem foldl_rotl28 {ns : List Nat} (h : ∀ n ∈ ns, n < 28) (x : BitVec 28) : ns.foldl rotl28 x = x.rotateLeft ns.sum := by
  induction ns generalizing x with
  | nil => exact (rotateLeft_zero x).symm
  | cons n ns ih =>
    obtain ⟨hn, hns⟩ := List.forall_mem_cons.mp h
    rw [List.foldl_cons, ih hns, rotl28_eq_rotateLeft x hn, rotateLeft_rotateLeft, List.sum_cons]

/-- Bit `j` of the rotated half is bit `j + n`, cyclically (R244). -/
theorem dbit_rotl28 (x : BitVec 28) {n j r : Nat} (hn : n < 28) (hj : 1 ≤ j ∧ j ≤ 28) (hr : 1 ≤ r ∧ r ≤ 28)
    (h : j + n = r ∨ j + n = r + 28) : dbit (rotl28 x n) j = dbit x r := by
  have hmod : (n + (j - 1)) % 28 = r - 1 := by omega
  rw [rotl28_eq_rotateLeft x hn, dbit_eq_getMsbD _ hj.1 hj.2, dbit_eq_getMsbD _ hr.1 hr.2, BitVec.getMsbD_rotateLeft,
    decide_eq_true (by omega), Bool.true_and, hmod]

end Sys2Proof.Machine
end

section
/-!
PROOFS of the Feistel family (43_feistel.md), the key schedule: each subkey by the rotations so far (R250), and the key bits it
does not depend on (R252).
-/

namespace Sys2Proof.Machine

theorem feiShifts_lt : ∀ n ∈ feiShifts, n < 28 := by decide

theorem scheduleFrom_length (c : Config) (ns : List Nat) (x y : BitVec 28) : (scheduleFrom c ns x y).length = ns.length := by
  induction ns generalizing x y with
  | nil => rfl
  | cons n ns ih => rw [scheduleFrom, List.length_cons, ih, List.length_cons]

/-- The subkey of round `i + 1` is taken from the halves rotated by all the shifts up to it (R250). -/
theorem scheduleFrom_getElem? (c : Config) {ns : List Nat} (h : ∀ n ∈ ns, n < 28) (x y : BitVec 28) {i : Nat}
    (hi : i < ns.length) :
    (scheduleFrom c ns x y)[i]? =
      some (perm 48 c.pc2 (x.rotateLeft (ns.take (i + 1)).sum ++ y.rotateLeft (ns.take (i + 1)).sum)) := by
  induction ns generalizing x y i with
  | nil => simp at hi
  | cons n ns ih =>
    obtain ⟨hn, hns⟩ := List.forall_mem_cons.mp h
    rw [scheduleFrom, rotl28_eq_rotateLeft x hn, rotl28_eq_rotateLeft y hn, List.take_succ_cons, List.sum_cons]
    cases i with
    | zero => simp
    | succ i =>
      rw [List.getElem?_cons_succ, ih hns _ _ (Nat.lt_of_succ_lt_succ hi)]
      simp only [rotateLeft_rotateLeft]

/-- Settles O45: every round adds its shift to the rotation of the halves, and sixteen shifts add up to 28. -/
theorem rotationsReturnAfterSixteenRounds : Obligations.RotationsReturnAfterSixteenRounds := by
  refine ⟨fun x n j _ hn h1 hj => ?_, rfl, rfl, fun c k i h1 hi => ?_, fun x => ?_,
    fun c k => scheduleFrom_length c _ _ _⟩
  · split <;> exact dbit_rotl28 x (by omega) ⟨h1, hj⟩ (by omega) (by omega)
  · rw [keySchedule, scheduleFrom_getElem? c feiShifts_lt _ _ (show i - 1 < 16 by omega), Nat.sub_add_cancel h1]
  · rw [foldl_rotl28 feiShifts_lt, ← BitVec.rotateLeft_mod_eq_rotateLeft]
    exact rotateLeft_zero x

/-- Settles O46: the default FEI_PC1 selects no parity bit. -/
theorem parityBitsHaveNoEffect : Obligations.ParityBitsHaveNoEffect := by
  intro c k k' hpc1 hk
  have hsel : ∀ j ∈ defaultPc1, 1 ≤ j ∧ j ≤ 64 ∧ j % 8 ≠ 0 := by decide
  have hperm : perm 56 c.pc1 k = perm 56 c.pc1 k' := by
    refine perm_congr 56 fun j hj => ?_
    rw [hpc1] at hj
    obtain ⟨h1, h64, h8⟩ := hsel j hj
    exact hk j h1 h64 h8
  rw [keySchedule, hperm, keySchedule]

end Sys2Proof.Machine
end

section
/-!
PROOFS of the Feistel family (43_feistel.md), legal configurations (R261): the checks of `Config.wf` as facts about the tables, and
what a step does under a configuration that fails one.
-/

namespace Sys2Proof

theorem tableInRange_iff (count hi : Nat) (t : List Nat) :
    tableInRange count hi t = true ↔ t.length = count ∧ ∀ k ∈ t, 1 ≤ k ∧ k ≤ hi := by
  simp [tableInRange]

theorem noRepeat_iff (t : List Nat) : noRepeat t = true ↔ t.Nodup := by
  induction t with
  | nil => simp [noRepeat]
  | cons k t ih => simp [noRepeat, ih]

theorem sboxInRange_iff (box : List (List Nat)) :
    sboxInRange box = true ↔ box.length = 4 ∧ ∀ row ∈ box, row.length = 16 ∧ ∀ v ∈ row, v ≤ 15 := by
  simp [sboxInRange]

theorem Config.ipOk_iff (c : Config) :
    c.ipOk = true ↔ (c.ip.length = 64 ∧ ∀ k ∈ c.ip, 1 ≤ k ∧ k ≤ 64) ∧ c.ip.Nodup := by
  rw [Config.ipOk, Bool.and_eq_true, tableInRange_iff, noRepeat_iff]

/-- A legal FEI_IP is a permutation of `1..64` (R261). -/
theorem Config.ip_perm {c : Config} (h : c.ipOk = true) : c.ip.Perm (List.range' 1 64) := by
  obtain ⟨⟨hlen, hrange⟩, hnodup⟩ := c.ipOk_iff.mp h
  have hsub : c.ip ⊆ List.range' 1 64 := fun k hk => by
    have := hrange k hk
    exact List.mem_range'_1.mpr (by omega)
  exact (List.subperm_of_subset hnodup hsub).perm_of_length_le (by rw [hlen, List.length_range'])

/-- The constraints of a legal configuration (R9, R261). -/
theorem Config.wf_iff (c : Config) :
    c.wf = true ↔ (1 ≤ c.bufSize ∧ c.bufSize ≤ 2 ^ 32) ∧ c.ipOk = true ∧
      ((c.pc1.length = 56 ∧ ∀ k ∈ c.pc1, 1 ≤ k ∧ k ≤ 64) ∧ c.pc1.Nodup) ∧
      ((c.pc2.length = 48 ∧ ∀ k ∈ c.pc2, 1 ≤ k ∧ k ≤ 56) ∧ c.pc2.Nodup) ∧
      (c.expansion.length = 48 ∧ ∀ k ∈ c.expansion, 1 ≤ k ∧ k ≤ 32) ∧
      (c.pout.length = 32 ∧ ∀ k ∈ c.pout, 1 ≤ k ∧ k ≤ 32) ∧
      c.sboxes.length = 8 ∧ ∀ box ∈ c.sboxes, box.length = 4 ∧ ∀ row ∈ box, row.length = 16 ∧ ∀ v ∈ row, v ≤ 15 := by
  simp only [Config.wf, Config.bufSizeOk, Config.pc1Ok, Config.pc2Ok, Config.expansionOk, Config.poutOk, Config.sboxesOk,
    Bool.and_eq_true, Nat.ble_eq, tableInRange_iff, noRepeat_iff, beq_iff_eq, List.all_eq_true, sboxInRange_iff, and_assoc]

end Sys2Proof

namespace Sys2Proof.Machine

/-- A refused step takes its turn and records the refusal (R310). -/
theorem step_of_illegal_config {s : State} (h : ¬s.config.wf = true) : step s = .next s.popTurn.markRefused := if_neg h

/-- Settles O6: each alternative breaks one constraint of a legal configuration. -/
theorem illegalConfigurationRefused : Obligations.IllegalConfigurationRefused := by
  intro s hbad
  have hwf : ¬s.config.wf = true := by
    intro h
    obtain ⟨hbuf, hip, hpc1, hpc2, hexp, hpout, hsbox⟩ := s.config.wf_iff.mp h
    have hperm := Config.ip_perm hip
    grind
  exact ⟨step_of_illegal_config hwf, fun hgood => hwf hgood.2.2⟩

end Sys2Proof.Machine
end

section
/-!
PROOFS of the Feistel family (43_feistel.md), the block function: FEI_FP is the inverse of FEI_IP (R257), and a round is undone by
the same round on the swapped halves (R259).
-/

namespace Sys2Proof.Machine

/-! ## FEI_IP and FEI_FP (R257) -/

theorem inverseTable_length (t : List Nat) : (inverseTable t).length = t.length := by
  rw [inverseTable, List.length_map, List.length_range]

theorem inverseTable_getD {t : List Nat} {k : Nat} (hk : k < t.length) :
    (inverseTable t).getD k 0 = t.idxOf (k + 1) + 1 := by
  simp [inverseTable, List.getD, hk]

section
variable {c : Config} (hip : c.ipOk = true)
include hip

theorem ip_length : c.ip.length = 64 := by
  rw [(Config.ip_perm hip).length_eq, List.length_range']

theorem mem_ip_iff {k : Nat} : k ∈ c.ip ↔ 1 ≤ k ∧ k ≤ 64 := by
  rw [(Config.ip_perm hip).mem_iff, List.mem_range'_1]
  omega

/-- Every entry of FEI_IP is in `1..64`. -/
theorem ip_getD_mem {j : Nat} (h1 : 1 ≤ j) (h64 : j ≤ 64) : 1 ≤ c.ip.getD (j - 1) 0 ∧ c.ip.getD (j - 1) 0 ≤ 64 := by
  have hlen := ip_length hip
  rw [List.getD_eq_getElem _ _ (by omega), ← mem_ip_iff hip]
  exact List.getElem_mem _

theorem inverseTable_ip_getD {j : Nat} (h1 : 1 ≤ j) (h64 : j ≤ 64) :
    (inverseTable c.ip).getD (c.ip.getD (j - 1) 0 - 1) 0 = j := by
  have hlen := ip_length hip
  obtain ⟨hlo, hhi⟩ := ip_getD_mem hip h1 h64
  obtain ⟨-, hnodup⟩ := c.ipOk_iff.mp hip
  rw [inverseTable_getD (by omega), Nat.sub_add_cancel hlo, List.getD_eq_getElem _ _ (by omega), hnodup.idxOf_getElem,
    Nat.sub_add_cancel h1]

/-- FEI_FP names for the bit `j` the place of `j` in FEI_IP. -/
theorem ip_inverseTable_getD {j : Nat} (h1 : 1 ≤ j) (h64 : j ≤ 64) :
    1 ≤ (inverseTable c.ip).getD (j - 1) 0 ∧ (inverseTable c.ip).getD (j - 1) 0 ≤ 64 ∧
      c.ip.getD ((inverseTable c.ip).getD (j - 1) 0 - 1) 0 = j := by
  have hlen := ip_length hip
  have hidx : c.ip.idxOf j < c.ip.length := List.idxOf_lt_length_of_mem ((mem_ip_iff hip).mpr ⟨h1, h64⟩)
  rw [inverseTable_getD (by omega), Nat.sub_add_cancel h1, Nat.add_sub_cancel, List.getD_eq_getElem _ _ hidx,
    List.getElem_idxOf]
  omega

theorem perm_inverseTable_perm_ip (v : BitVec 64) : perm 64 (inverseTable c.ip) (perm 64 c.ip v : BitVec 64) = v := by
  have hlen := ip_length hip
  refine eq_of_dbit_eq fun j h1 h64 => ?_
  obtain ⟨hlo, hhi, hj⟩ := ip_inverseTable_getD hip h1 h64
  rw [dbit_perm _ ((inverseTable_length _).trans hlen) h1 h64, dbit_perm _ hlen hlo hhi, hj]

theorem perm_ip_perm_inverseTable (v : BitVec 64) : perm 64 c.ip (perm 64 (inverseTable c.ip) v : BitVec 64) = v := by
  have hlen := ip_length hip
  refine eq_of_dbit_eq fun j h1 h64 => ?_
  obtain ⟨hlo, hhi⟩ := ip_getD_mem hip h1 h64
  rw [dbit_perm _ hlen h1 h64, dbit_perm _ ((inverseTable_length _).trans hlen) hlo hhi, inverseTable_ip_getD hip h1 h64]

end

/-- Settles O44. -/
theorem finalPermutationInvertsInitial : Obligations.FinalPermutationInvertsInitial := fun _ v hip =>
  ⟨fun _ => inverseTable_ip_getD hip, perm_inverseTable_perm_ip hip v⟩

/-! ## Rounds and blocks (R257, R259) -/

theorem rounds_cons (c : Config) (k : BitVec 48) (ks : List (BitVec 48)) (lr : BitVec 32 × BitVec 32) :
    rounds c (k :: ks) lr = rounds c ks (lr.2, lr.1 ^^^ feistelF c lr.2 k) := rfl

theorem rounds_append (c : Config) (ks ks' : List (BitVec 48)) (lr : BitVec 32 × BitVec 32) :
    rounds c (ks ++ ks') lr = rounds c ks' (rounds c ks lr) := by
  induction ks generalizing lr with
  | nil => rfl
  | cons k ks ih => exact ih _

/-- The rounds under the reversed subkeys, from the swapped halves, lead back to the swapped halves (R259). -/
theorem rounds_reverse_swap_rounds (c : Config) (ks : List (BitVec 48)) (lr : BitVec 32 × BitVec 32) :
    rounds c ks.reverse (rounds c ks lr).swap = lr.swap := by
  induction ks generalizing lr with
  | nil => rfl
  | cons k ks ih =>
    obtain ⟨l, r⟩ := lr
    rw [List.reverse_cons, rounds_append, rounds_cons c k ks, ih]
    simp [rounds]

/-- A block whose halves after FEI_IP are known (R257). -/
theorem block_of_halves {c : Config} {b : BitVec 64} {l r : BitVec 32} (h : perm 64 c.ip b = l ++ r)
    (ks : List (BitVec 48)) :
    block c b ks = perm 64 (inverseTable c.ip) ((rounds c ks (l, r)).2 ++ (rounds c ks (l, r)).1) := by
  have hl : (l ++ r).extractLsb' 32 32 = l := BitVec.extractLsb'_append_eq_left
  have hr : (l ++ r).extractLsb' 0 32 = r := BitVec.extractLsb'_append_eq_right
  rw [block, h, hl, hr]

theorem exists_halves (x : BitVec 64) : ∃ l r : BitVec 32, x = l ++ r :=
  ⟨_, _, (BitVec.extractLsb'_append_extractLsb' (w := 32) (len := 32) (x := x)).symm⟩

/-- Settles O47: FEI_IP takes the enciphered block to the swapped halves, from which the rounds lead back. -/
theorem blockWithReversedSubkeysInverts : Obligations.BlockWithReversedSubkeysInverts := by
  intro c b ks hip
  obtain ⟨l, r, hb⟩ := exists_halves (perm 64 c.ip b)
  have hc := perm_ip_perm_inverseTable hip ((rounds c ks (l, r)).2 ++ (rounds c ks (l, r)).1)
  rw [← block_of_halves hb] at hc
  have hback := rounds_reverse_swap_rounds c ks (l, r)
  rw [block_of_halves hc, ← Prod.swap, hback, Prod.swap, ← hb, perm_inverseTable_perm_ip hip]

end Sys2Proof.Machine
end

section
/-!
PROOFS of the Feistel family (43_feistel.md), the round function: the S-box lanes (R254), the four stages (R256) and one round of
a block (R257).
-/

namespace Sys2Proof.Machine

/-! ## The S-box lanes (R254) -/

/-- What holds of every entry and of the default holds of an entry read with that default. -/
theorem forall_getD {α : Type} {P : α → Prop} {l : List α} {d : α} (h : ∀ x ∈ l, P x) (hd : P d) (k : Nat) : P (l.getD k d) := by
  obtain hk | hk := Nat.lt_or_ge k l.length
  · rw [List.getD_eq_getElem l d hk]
    exact h _ (List.getElem_mem hk)
  · rwa [List.getD_eq_default l d hk]

/-- An entry of a legal box is a nibble; so is the 0 read past a table. -/
theorem sboxEntry_lt {c : Config} (hwf : c.wf = true) (i row col : Nat) : sboxEntry c i row col < 16 := by
  obtain ⟨-, -, -, -, -, -, -, hboxes⟩ := c.wf_iff.mp hwf
  have hbox : ∀ row ∈ c.sboxes.getD i [], ∀ v ∈ row, v < 16 :=
    forall_getD (P := fun box => ∀ row ∈ box, ∀ v ∈ row, v < 16)
      (fun box hb row hr v hv => Nat.lt_succ_of_le (((hboxes box hb).2 row hr).2 v hv)) (by simp) i
  have hrow : ∀ v ∈ (c.sboxes.getD i []).getD row [], v < 16 :=
    forall_getD (P := fun row => ∀ v ∈ row, v < 16) hbox (by simp) row
  exact forall_getD (P := (· < 16)) hrow (by decide) col

/-- Group `i + 1` of the S-box layer's input (R254). -/
def sboxGroup (x : BitVec 48) (i : Nat) : BitVec 6 := x.extractLsb' (42 - 6 * i) 6

theorem sBoxes_eq_shiftIn (c : Config) (x : BitVec 48) :
    sBoxes c x = shiftIn 4 (fun i => BitVec.ofNat 32 (sboxLookup c i (sboxGroup x i))) 0#32 (List.range 8) := rfl

/-- Bit `j` of output nibble `i + 1` is a bit of what box `i + 1` answers for its own group. -/
theorem dbit_sBoxes {c : Config} (hwf : c.wf = true) (x : BitVec 48) {i j : Nat} (hi : i < 8) (h1 : 1 ≤ j) (h4 : j ≤ 4) :
    dbit (sBoxes c x) (4 * i + j) = (sboxLookup c i (sboxGroup x i)).testBit (4 - j) := by
  have hg (i b : Nat) (hb : 4 ≤ b) : (BitVec.ofNat 32 (sboxLookup c i (sboxGroup x i))).getLsbD b = false := by
    have hlt : sboxLookup c i (sboxGroup x i) < 2 ^ b :=
      Nat.lt_of_lt_of_le (sboxEntry_lt hwf _ _ _) (Nat.pow_le_pow_right Nat.two_pos hb)
    rw [BitVec.getLsbD_ofNat, Nat.testBit_lt_two_pow hlt, Bool.and_false]
  have hbit := shiftIn_getLsbD hg 0#32 (l := List.range 8) (k := i) (b := 4 - j) (by simpa using hi) (by omega)
    (by simp; omega)
  rw [List.getElem_range, BitVec.getLsbD_ofNat, decide_eq_true (by omega), Bool.true_and] at hbit
  rw [← hbit, dbit, sBoxes_eq_shiftIn, List.length_range]
  congr 1
  omega

theorem nibble_toNat (v : BitVec 4) :
    v.toNat = 8 * (v.getLsbD 3).toNat + 4 * (v.getLsbD 2).toNat + 2 * (v.getLsbD 1).toNat + (v.getLsbD 0).toNat := by
  decide +revert

/-- The entry a group selects, by the DES bits of the S-box layer's input (R254). -/
theorem sboxLookup_group (c : Config) (x : BitVec 48) {i : Nat} (hi : i < 8) :
    sboxLookup c i (sboxGroup x i) =
      sboxEntry c i (2 * (dbit x (6 * i + 1)).toNat + (dbit x (6 * i + 6)).toNat)
        (8 * (dbit x (6 * i + 2)).toNat + 4 * (dbit x (6 * i + 3)).toNat + 2 * (dbit x (6 * i + 4)).toNat +
          (dbit x (6 * i + 5)).toNat) := by
  have hbit {b j : Nat} (hb : b < 6) (hj : b + j = 6) : (sboxGroup x i).getLsbD b = dbit x (6 * i + j) := by
    rw [sboxGroup, BitVec.getLsbD_extractLsb', decide_eq_true hb, Bool.true_and, dbit]
    congr 1
    omega
  rw [sboxLookup, nibble_toNat]
  simp only [BitVec.getLsbD_extractLsb' (len := 4), Nat.reduceLT, decide_true, Bool.true_and, Nat.reduceAdd]
  rw [hbit (j := 1) (by omega) rfl, hbit (j := 6) (by omega) rfl, hbit (j := 2) (by omega) rfl, hbit (j := 3) (by omega) rfl,
    hbit (j := 4) (by omega) rfl, hbit (j := 5) (by omega) rfl]

/-! ## The round function and a round (R256, R257) -/

/-- The round function from the DES bits of the S-box layer's input (R253, R255, R256). -/
theorem dbit_feistelF {c : Config} (hwf : c.wf = true) {r : BitVec 32} {k y : BitVec 48}
    (hy : ∀ j, 1 ≤ j → j ≤ 48 → dbit y j = (dbit r (c.expansion.getD (j - 1) 0) ^^ dbit k j)) {j : Nat} (h1 : 1 ≤ j)
    (h32 : j ≤ 32) : dbit (feistelF c r k) j = dbit (sBoxes c y) (c.pout.getD (j - 1) 0) := by
  obtain ⟨-, -, -, -, ⟨hexp, -⟩, ⟨hpout, -⟩, -⟩ := c.wf_iff.mp hwf
  have hxor : perm 48 c.expansion r ^^^ k = y := eq_of_dbit_eq fun i hi h48 => by
    rw [hy i hi h48, ← dbit_perm r hexp hi h48]
    exact BitVec.getLsbD_xor
  rw [feistelF, hxor, dbit_perm _ hpout h1 h32]

/-- Settles O60. -/
theorem roundFunctionAndRounds : Obligations.RoundFunctionAndRounds := by
  intro c hwf
  refine ⟨?_, fun r k y hy j => dbit_feistelF hwf hy, fun b l r hb => ⟨block_of_halves hb [], fun b' k ks hb' => ?_⟩⟩
  · rintro x i row col hi rfl rfl j h1 h4
    rw [dbit_sBoxes hwf x hi h1 h4, sboxLookup_group c x hi, sboxEntry]
  · rw [block_of_halves hb, rounds_cons, block_of_halves hb']

end Sys2Proof.Machine
end

section
/-!
PROOFS of the Feistel family (43_feistel.md), ECB over whole blocks (R260) and the padding (R270, R272).
-/

namespace Sys2Proof.Machine

/-! ## ECB (R260) -/

theorem blockOf_append_left {x y : Bytes} {j : Nat} (h : 8 * j + 8 ≤ x.length) : blockOf (x ++ y) j = blockOf x j := by
  rw [blockOf, List.drop_append_of_le_length (by omega), List.take_append_of_le_length (by rw [List.length_drop]; omega),
    blockOf]

theorem blockOf_append_right {x y : Bytes} (h : x.length % 8 = 0) (j : Nat) :
    blockOf (x ++ y) (x.length / 8 + j) = blockOf y j := by
  rw [blockOf, show 8 * (x.length / 8 + j) = x.length + 8 * j by omega, List.drop_length_add_append, blockOf]

theorem ecb_append (c : Config) {x : Bytes} (y : Bytes) (ks : List (BitVec 48)) (h : x.length % 8 = 0) :
    ecb c (x ++ y) ks = ecb c x ks ++ ecb c y ks := by
  have hcount : (x ++ y).length / 8 = x.length / 8 + y.length / 8 := by
    rw [List.length_append]
    omega
  rw [ecb, hcount, List.range_add, List.flatMap_append, List.flatMap_map, ecb, ecb]
  refine congrArg₂ (· ++ ·) (List.flatMap_congr fun j hj => ?_) (List.flatMap_congr fun j _ => ?_)
  · have hj := List.mem_range.mp hj
    rw [blockOf_append_left (by omega)]
  · rw [blockOf_append_right h]

/-- ECB of one block (R242, R260). -/
theorem ecb_of_block (c : Config) {x : Bytes} (ks : List (BitVec 48)) (h : x.length = 8) :
    ecb c x ks = toBe 8 (block c (BitVec.ofNat 64 (be x)) ks).toNat := by
  have htake : x.take 8 = x := List.take_of_length_le (by omega)
  simp [ecb, h, blockOf, htake]

/-- Settles O48. -/
theorem ecbBlocksAreIndependent : Obligations.EcbBlocksAreIndependent := fun c _ y ks h =>
  ⟨ecb_append c y ks h, ecb_of_block c ks⟩

/-- A block is stored and read back (R12, R242). -/
theorem ofNat_be_toBe (v : BitVec 64) : BitVec.ofNat 64 (be (toBe 8 v.toNat)) = v := by
  have hlt : v.toNat < 256 ^ 8 := v.isLt
  rw [be_toBe, Nat.mod_eq_of_lt hlt, BitVec.ofNat_toNat, BitVec.setWidth_eq]

theorem toBe_ofNat_be {x : Bytes} (h : x.length = 8) : toBe 8 (BitVec.ofNat 64 (be x)).toNat = x := by
  have hlt : be x < 2 ^ 64 := by simpa [h] using be_lt x
  rw [BitVec.toNat_ofNat, Nat.mod_eq_of_lt hlt, ← h, toBe_be]

/-- Deciphering undoes enciphering block by block (R259, R260). -/
theorem ecb_reverse_ecb {c : Config} (hip : c.ipOk = true) (ks : List (BitVec 48)) {n : Nat} {m : Bytes}
    (h : m.length = 8 * n) : ecb c (ecb c m ks) ks.reverse = m := by
  induction n generalizing m with
  | zero =>
    obtain rfl := List.length_eq_zero_iff.mp h
    simp [ecb]
  | succ n ih =>
    have h8 : (m.take 8).length = 8 := by rw [List.length_take]; omega
    have hrest : (m.drop 8).length = 8 * n := by rw [List.length_drop]; omega
    conv_lhs => rw [← List.take_append_drop 8 m]
    rw [ecb_append c _ ks (by rw [h8]), ecb_of_block c ks h8, ecb_append c _ _ (by rw [toBe_length]), ih hrest,
      ecb_of_block c _ (toBe_length _ _), ofNat_be_toBe, blockWithReversedSubkeysInverts _ _ _ hip, toBe_ofNat_be h8,
      List.take_append_drop]

/-! ## Padding (R270, R272) -/

/-- The last `p` bytes of a sequence are all `p`, the condition of R272. -/
theorem all_drop_iff {m : Bytes} {p : Byte} (h : p.toNat ≤ m.length) :
    (m.drop (m.length - p.toNat)).all (fun b => b.toNat == p.toNat) = true ↔
      ∀ k, 1 ≤ k → k ≤ p.toNat → m[m.length - k]? = some p := by
  simp only [List.all_eq_true, beq_iff_eq, BitVec.toNat_inj, List.mem_iff_getElem?, List.getElem?_drop,
    forall_exists_index]
  constructor
  · intro hall k h1 hk
    have hlt : m.length - k < m.length := by omega
    have hidx : m.length - p.toNat + (p.toNat - k) = m.length - k := by omega
    have hp := hall _ (p.toNat - k) (by rw [hidx]; exact List.getElem?_eq_getElem hlt)
    rw [List.getElem?_eq_getElem hlt, hp]
  · intro hlast b i hb
    obtain ⟨hlt, -⟩ := List.getElem?_eq_some_iff.mp hb
    have hp := hlast (p.toNat - i) (by omega) (by omega)
    rw [show m.length - (p.toNat - i) = m.length - p.toNat + i by omega, hb] at hp
    exact Option.some.inj hp

section
variable {m : Bytes} {p : Byte} (hp : p = m.getLastD 0#8)
include hp

/-- `Unpad` by the last byte `p` (R272). -/
theorem unpadBlock_eq : unpadBlock m =
    if p.toNat < 1 ∨ 8 < p.toNat then .error .feiPadValue
    else if (m.drop (m.length - p.toNat)).all (fun b => b.toNat == p.toNat) then .ok (m.take (m.length - p.toNat))
    else .error .feiPadMismatch := by
  rw [hp, unpadBlock]

theorem unpadBlock_of_bad_value (h : p.toNat = 0 ∨ 8 < p.toNat) : unpadBlock m = .error .feiPadValue := by
  rw [unpadBlock_eq hp, if_pos (by omega)]

variable (h1 : 1 ≤ p.toNat) (h8 : p.toNat ≤ 8) (hlen : 8 ≤ m.length)
include h1 h8 hlen

theorem unpadBlock_of_padded (h : ∀ k, 1 ≤ k → k ≤ p.toNat → m[m.length - k]? = some p) :
    unpadBlock m = .ok (m.take (m.length - p.toNat)) := by
  rw [unpadBlock_eq hp, if_neg (by omega), if_pos ((all_drop_iff (by omega)).mpr h)]

theorem unpadBlock_of_mismatch (h : ∃ k, 1 ≤ k ∧ k ≤ p.toNat ∧ m[m.length - k]? ≠ some p) :
    unpadBlock m = .error .feiPadMismatch := by
  obtain ⟨k, hk1, hkp, hne⟩ := h
  rw [unpadBlock_eq hp, if_neg (by omega), if_neg (fun hall => hne ((all_drop_iff (by omega)).mp hall k hk1 hkp))]

end

/-- A plaintext lacks from 1 to 8 bytes of the deciphered sequence (R272). -/
theorem unpadBlock_ok {m y : Bytes} (h : unpadBlock m = .ok y) :
    ∃ p, 1 ≤ p ∧ p ≤ 8 ∧ y = m.take (m.length - p) := by
  rw [unpadBlock_eq rfl] at h
  split at h
  · cases h
  · split at h
    · cases h
      exact ⟨_, by omega, by omega, rfl⟩
    · cases h

theorem unpadBlock_padBlock (x : Bytes) : unpadBlock (padBlock x) = .ok x := by
  have hlen : (padBlock x).length = x.length + (8 - x.length % 8) := by rw [padBlock_length]; omega
  have hp : (BitVec.ofNat 8 (8 - x.length % 8)).toNat = 8 - x.length % 8 := by
    rw [BitVec.toNat_ofNat, Nat.mod_eq_of_lt (by omega)]
  have hlast : BitVec.ofNat 8 (8 - x.length % 8) = (padBlock x).getLastD 0#8 := by
    rw [List.getLastD_eq_getLast?, padBlock, List.getLast?_append, List.getLast?_replicate, if_neg (by omega)]
    rfl
  have hpad : ∀ k, 1 ≤ k → k ≤ 8 - x.length % 8 →
      (padBlock x)[(padBlock x).length - k]? = some (BitVec.ofNat 8 (8 - x.length % 8)) := by
    intro k h1 hk
    rw [hlen, padBlock, List.getElem?_append_right (by omega), List.getElem?_replicate, if_pos (by omega)]
  rw [unpadBlock_of_padded hlast (by omega) (by omega) (by omega) (by rwa [hp]), hp, hlen, Nat.add_sub_cancel, padBlock,
    List.take_left]

end Sys2Proof.Machine
end

section
/-!
PROOFS of the Feistel family (43_feistel.md), the two commands: what the transforms answer, their round trip and their lengths
(R271 to R275), and the completions of FEI_ENC and FEI_DEC.
-/

namespace Sys2Proof.Machine

/-! ## The transforms (R271, R273) -/

section
variable (c : Config) (src key8 : Bytes) {keylen : Nat}

theorem feiEncrypt_of_short_key (h : keylen < 8) : feiEncrypt c src keylen key8 = .error .keyTooShort := if_pos h

theorem feiEncrypt_of_key (h : 8 ≤ keylen) :
    feiEncrypt c src keylen key8 = .ok (ecb c (padBlock src) (keySchedule c (keyOf key8))) := if_neg (Nat.not_lt.mpr h)

theorem feiDecrypt_of_short_key (h : keylen < 8) : feiDecrypt c src keylen key8 = .error .keyTooShort := if_pos h

theorem feiDecrypt_of_bad_length (h : 8 ≤ keylen) (hlen : src.length = 0 ∨ src.length % 8 ≠ 0) :
    feiDecrypt c src keylen key8 = .error .feiBadLength := by
  rw [feiDecrypt, if_neg (Nat.not_lt.mpr h), if_pos hlen]

theorem feiDecrypt_of_blocks (h : 8 ≤ keylen) (h0 : src.length ≠ 0) (h8 : src.length % 8 = 0) :
    feiDecrypt c src keylen key8 = unpadBlock (ecb c src (keySchedule c (keyOf key8)).reverse) := by
  rw [feiDecrypt, if_neg (Nat.not_lt.mpr h), if_neg (by omega)]

/-- The ciphertext is as long as the padded plaintext (R275). -/
theorem ecb_padBlock_length (ks : List (BitVec 48)) : (ecb c (padBlock src) ks).length = 8 * (src.length / 8 + 1) := by
  rw [ecb_length, padBlock_length, Nat.mul_div_cancel_left _ (by decide)]

end

/-- Settles O49: the ciphertext is whole blocks, which decipher to the padded plaintext. -/
theorem feistelRoundTrip : Obligations.FeistelRoundTrip := by
  intro c x key8 keylen hwf hkey
  obtain ⟨-, hip, -⟩ := c.wf_iff.mp hwf
  have hlen := ecb_padBlock_length c x (keySchedule c (keyOf key8))
  refine ⟨_, feiEncrypt_of_key c x key8 hkey, ?_⟩
  rw [feiDecrypt_of_blocks c _ key8 hkey (by omega) (by omega), ecb_reverse_ecb hip _ (padBlock_length x),
    unpadBlock_padBlock]

/-- Settles O50. -/
theorem feistelLengths : Obligations.FeistelLengths := by
  intro c x y key8 keylen
  obtain hkey | hkey := Nat.lt_or_ge keylen 8
  · rw [feiEncrypt_of_short_key c x key8 hkey, feiDecrypt_of_short_key c x key8 hkey]
    exact ⟨nofun, nofun⟩
  · refine ⟨fun h => ?_, fun h => ?_⟩
    · rw [feiEncrypt_of_key c x key8 hkey] at h
      cases h
      rw [ecb_padBlock_length]
      omega
    · by_cases hlen : x.length = 0 ∨ x.length % 8 ≠ 0
      · rw [feiDecrypt_of_bad_length c x key8 hkey hlen] at h
        cases h
      · rw [feiDecrypt_of_blocks c x key8 hkey (by omega) (by omega)] at h
        obtain ⟨p, h1, h8, rfl⟩ := unpadBlock_ok h
        rw [List.length_take, ecb_length]
        omega

/-! ## FEI_ENC and FEI_DEC -/

theorem fetchKey_of_keyHolds {s : State} {key8 : Bytes} (h : KeyHolds s key8) : s.fetchKey = .ok key8 := by
  obtain ⟨hlen, hbytes⟩ := h
  rw [State.fetchKey, ← hlen, read_of_holds hbytes]

theorem fetchFor_keyed_of_holds {i : Instr} (hi : isKeyed i = true) {s : State} {src key8 : Bytes} (hsrc : SrcHolds s src)
    (hkey : KeyHolds s key8) : s.fetchFor i = .ok (src, key8) := by
  rw [fetchFor_of_keyed hi, State.fetchKeyed, fetchSrc_of_srcHolds hsrc, fetchKey_of_keyHolds hkey]

/-- Settles O20. -/
theorem feiEncResult : Obligations.FeiEncResult := by
  intro s src key8 hp hsrc hkey
  have hf := fetchFor_keyed_of_holds (i := .feiEnc) rfl hsrc hkey
  have hlen := ecb_padBlock_length s.config src (keySchedule s.config (keyOf key8))
  obtain ⟨hsrcLen, -⟩ := hsrc
  rw [hsrcLen] at hlen
  refine ⟨fun h => ?_, fun h hcap => ?_, fun h hcap => ?_⟩
  · exact exec_completedError (i := .feiEnc) hp hf (feiEncrypt_of_short_key s.config src key8 h)
  · exact exec_dstTooSmall (i := .feiEnc) hp hf (feiEncrypt_of_key s.config src key8 h) (hlen ▸ hcap)
  · obtain ⟨t, ht, hok⟩ :=
      exec_completedOk (i := .feiEnc) hp hf (feiEncrypt_of_key s.config src key8 h) (hlen ▸ hcap)
    have ⟨_, _, _, hresult, _⟩ := hok
    exact ⟨t, ht, hresult.trans hlen, hok⟩

/-- Settles O21. -/
theorem feiDecResult : Obligations.FeiDecResult := by
  intro s src key8 m p hp hsrc hkey hm hlast
  have hf := fetchFor_keyed_of_holds (i := .feiDec) rfl hsrc hkey
  have error {d : Detail} := exec_completedError (i := .feiDec) (d := d) hp hf
  obtain ⟨hsrcLen, -⟩ := hsrc
  refine ⟨fun h => error (feiDecrypt_of_short_key _ _ _ h), fun h hbad => ?_, fun h h0 h8 => ?_⟩
  · rw [← hsrcLen] at hbad
    exact error (feiDecrypt_of_bad_length _ _ _ h hbad)
  · rw [← hsrcLen] at h0 h8
    have hlen : 8 ≤ m.length := by
      rw [hm, ecb_length]
      omega
    have hdec : feiDecrypt s.config src s.keyLen.toNat key8 = unpadBlock m :=
      hm ▸ feiDecrypt_of_blocks _ _ _ h h0 h8
    refine ⟨fun hv => error (hdec.trans (unpadBlock_of_bad_value hlast hv)), fun h1 hp8 => ⟨fun hne => ?_, fun hpad => ?_⟩⟩
    · exact error (hdec.trans (unpadBlock_of_mismatch hlast h1 hp8 hlen hne))
    · have hok := hdec.trans (unpadBlock_of_padded hlast h1 hp8 hlen hpad)
      have htake : (m.take (m.length - p.toNat)).length = m.length - p.toNat :=
        List.length_take_of_le (Nat.sub_le _ _)
      exact ⟨fun hcap => exec_dstTooSmall (i := .feiDec) hp hf hok (htake.symm ▸ hcap),
        fun hcap => exec_completedOk (i := .feiDec) hp hf hok (htake.symm ▸ hcap)⟩

end Sys2Proof.Machine
end

section
/-!
PROOFS of the exceptions family (60_exceptions.md): the DETAIL and ERR values of the causes, and those of a legal state (R300,
R301).
-/

namespace Sys2Proof.Machine

/-! ## The table of R301 -/

/-- The DETAIL column of R301 repeats no value. -/
theorem detailCode_injective : Function.Injective detailCode := by
  have hnodup : (allDetails.map detailCode).Nodup := by decide
  exact fun d e => List.inj_on_of_nodup_map hnodup (mem_allDetails d) (mem_allDetails e)

theorem detailCode_ne_zero (d : Detail) : detailCode d ≠ 0#8 := by
  cases d <;> decide

/-- No cause of R301 is an IO error. -/
theorem kindOf_ne_io (d : Detail) : kindOf d ≠ .io := by
  cases d <;> decide

theorem errCode_mem_of_ne_io {k : ErrKind} (h : k ≠ .io) : errCode k ∈ [1#3, 2#3, 3#3, 5#3] := by
  cases k with
  | io => exact absurd rfl h
  | argument | format | padding | resource => decide

theorem errCode_kindOf_mem (d : Detail) : errCode (kindOf d) ∈ [1#3, 2#3, 3#3, 5#3] :=
  errCode_mem_of_ne_io (kindOf_ne_io d)

/-! ## Legal states -/

/-- ERR of a legal state is 0 or the value of a cause: 4, 6 and 7 stay reserved (R33, R300). -/
theorem State.ErrorLegal.err_mem {s : State} (h : s.ErrorLegal) : s.err ∈ [0#3, 1#3, 2#3, 3#3, 5#3] := by
  obtain ⟨herr, -⟩ | ⟨-, d, -, herr, -⟩ := h
  · exact herr ▸ List.mem_cons_self
  · exact herr ▸ List.mem_cons_of_mem _ (errCode_kindOf_mem d)

theorem State.ErrorLegal.err_eq_zero_iff {s : State} (h : s.ErrorLegal) : s.err = 0#3 ↔ s.detail = 0#8 := by
  obtain ⟨herr, hdetail⟩ | ⟨-, d, -, herr, hdetail⟩ := h
  · exact iff_of_true herr hdetail
  · exact iff_of_false (herr ▸ errCode_ne_zero _) (hdetail ▸ detailCode_ne_zero d)

/-- Settles O37: the table is read off row by row, and a legal state's ERR and DETAIL are both 0 or those of one cause. -/
theorem errorCodesAreLegal : Obligations.ErrorCodesAreLegal := by
  refine ⟨fun _ _ h => detailCode_injective h, fun d => ⟨detailCode_ne_zero d, errCode_kindOf_mem d⟩, ?_, ?_⟩
  · simp only [List.Forall, detailCode, kindOf, errCode, and_self]
  · intro s ⟨_, _, hs, _⟩
    have hreserved : ∀ e ∈ [0#3, 1#3, 2#3, 3#3, 5#3], e ≠ 4#3 ∧ e ≠ 6#3 ∧ e ≠ 7#3 := by decide
    obtain ⟨h4, h6, h7⟩ := hreserved s.err hs.err_mem
    exact ⟨h4, h6, h7, hs.err_eq_zero_iff⟩

end Sys2Proof.Machine
end

section
/-!
PROOFS of the reset-and-hazards family (70_reset_and_hazards.md), reset: what it clears, what it does to buffer memory, and
that the model's marks and the configuration survive it and every other step.
-/

namespace Sys2Proof.Machine

/-! ## Reset -/

/-- Settles O31. -/
theorem resetClearsRegisters : Obligations.ResetClearsRegisters := fun _ => rfl

/-- Settles O32: each clause decides the two conditions under which `byteAt_memAfterReset` undefines a cell, BUSY and the
DST region. -/
theorem resetAndBufferMemory : Obligations.ResetAndBufferMemory := by
  intro s
  have hcell (a : Nat) : (s.hostOp .reset).mem.byteAt a =
      if s.busy = true ∧ s.dstAddr.toNat ≤ a ∧ a < s.dstAddr.toNat + s.dstCap.toNat then none else s.mem.byteAt a :=
    byteAt_memAfterReset s a
  refine ⟨fun hb a => ?_, fun hb => ⟨rfl, rfl, fun a => ⟨fun hin => ?_, fun hout => ?_⟩⟩⟩
  · rw [hcell, if_neg (by simp [hb])]
  · rw [hcell, if_pos ⟨hb, hin⟩]
  · rw [hcell, if_neg (by omega)]

/-! ## Marks and configuration -/

/-- No mark of `s` is cleared in `t`, and the configuration is the same. -/
def KeepsMarks (s t : State) : Prop :=
  (s.refused = true → t.refused = true) ∧ (∀ f, s.fault = some f → t.fault = some f) ∧ t.config = s.config

theorem KeepsMarks.of_eq {s t : State} (hm : SameMarks s t) (hc : t.config = s.config) : KeepsMarks s t := by
  obtain ⟨hr, hf⟩ := hm
  exact ⟨hr.trans, fun _ => hf.trans, hc⟩

theorem KeepsMarks.markRefused (s : State) : KeepsMarks s s.markRefused := ⟨fun _ => rfl, fun _ => id, rfl⟩

/-- A later fault leaves the first one (R48). -/
theorem KeepsMarks.of_fault_or {s t : State} {f : Fault} (hr : t.refused = s.refused) (hf : t.fault = s.fault.or (some f))
    (hc : t.config = s.config) : KeepsMarks s t :=
  ⟨hr.trans, fun g hg => by rw [hf, hg, Option.some_or], hc⟩

theorem writeReg_keepsMarks (s : State) (w : Word) (r : RegName) : KeepsMarks s (s.writeReg w r) := by
  cases r <;> exact .of_eq ⟨rfl, rfl⟩ rfl

theorem writeReg_script (s : State) (w : Word) (r : RegName) : (s.writeReg w r).script = s.script := by
  cases r <;> rfl

/-- What a host operation does beside the engine: it keeps the marks and the configuration, and of the script it can only put
back the poll of `wait` (R108). -/
theorem hostOp_marks_and_script (s : State) (op : HostOp) :
    KeepsMarks s (s.hostOp op) ∧
      ((s.hostOp op).script = s.script ∨ (s.hostOp op).script = .wait :: s.script) := by
  cases op with
  | regRead size off =>
    rw [State.hostOp]
    obtain h | h := hostRegRead_cases s size off <;> rw [h]
    · exact ⟨.markRefused s, .inl rfl⟩
    · exact ⟨.of_eq ⟨rfl, rfl⟩ rfl, .inl rfl⟩
  | regWrite size off w =>
    rw [State.hostOp]
    obtain h | h | ⟨-, r, -, h⟩ := hostRegWrite_cases s size off w <;> rw [h]
    · exact ⟨.markRefused s, .inl rfl⟩
    · exact ⟨.of_eq ⟨rfl, rfl⟩ rfl, .inl rfl⟩
    · exact ⟨writeReg_keepsMarks s w r, .inl (writeReg_script s w r)⟩
  | bufRead a =>
    rw [State.hostOp]
    obtain h | ⟨f, h⟩ | ⟨b, -, h⟩ := hostBufRead_cases s a <;> rw [h]
    · exact ⟨.markRefused s, .inl rfl⟩
    · exact ⟨.of_fault_or rfl rfl rfl, .inl rfl⟩
    · exact ⟨.of_eq ⟨rfl, rfl⟩ rfl, .inl rfl⟩
  | bufWrite a b =>
    rw [State.hostOp]
    obtain h | ⟨f, h⟩ | ⟨-, -, h⟩ := hostBufWrite_cases s a b <;> rw [h]
    · exact ⟨.markRefused s, .inl rfl⟩
    · exact ⟨.of_fault_or rfl rfl rfl, .inl rfl⟩
    · exact ⟨.of_eq ⟨rfl, rfl⟩ rfl, .inl rfl⟩
  | reset => exact ⟨.of_eq ⟨rfl, rfl⟩ rfl, .inl rfl⟩
  | wait =>
    rw [State.hostOp, hostWait_eq]
    refine ⟨.of_eq ⟨rfl, rfl⟩ rfl, ?_⟩
    obtain hb | hb := Bool.eq_false_or_eq_true s.busy
    · exact .inr (if_pos hb)
    · exact .inl (if_neg (by simp [hb]))

theorem hostOp_keepsMarks (s : State) (op : HostOp) : KeepsMarks s (s.hostOp op) :=
  (hostOp_marks_and_script s op).1

/-- A host operation puts no reset into the script. -/
theorem reset_mem_script_of_hostOp {s : State} {op : HostOp} (h : .reset ∈ (s.hostOp op).script) :
    .reset ∈ s.script := by
  obtain ⟨-, he | he⟩ := hostOp_marks_and_script s op <;> rw [he] at h
  · exact h
  · exact List.mem_of_ne_of_mem HostOp.noConfusion h

theorem hostTurn_keepsMarks (s : State) : KeepsMarks s s.hostTurn := by
  obtain ⟨-, h⟩ | ⟨op, rest, -, h⟩ := hostTurn_cases s <;> rw [h]
  · exact .of_eq ⟨rfl, rfl⟩ rfl
  · exact hostOp_keepsMarks { s with script := rest } op

/-- A completion touches no mark but the fault of an undefined fetch. -/
theorem exec_keepsMarks {i : Instr} {s t : State} (h : exec i s = .next t) : KeepsMarks s t := by
  obtain ⟨d, he⟩ | ⟨-, out, -, he⟩ | ⟨-, a, -, he⟩ := exec_cases i s <;> cases h.symm.trans he
  · exact .of_eq ⟨rfl, rfl⟩ rfl
  · exact .of_eq ⟨rfl, rfl⟩ rfl
  · exact .of_fault_or (s.commitUndefined_refused a) (s.commitUndefined_fault a) (s.commitUndefined_config a)

/-- Settles O36. -/
theorem marksAndConfigurationAreKept : Obligations.MarksAndConfigurationAreKept := by
  intro s t h
  change KeepsMarks s.popTurn t
  obtain ⟨-, rfl⟩ | ⟨-, ⟨-, rfl⟩ | ⟨-, -, rfl⟩ | ⟨-, -, w, -, ⟨e, -, rfl⟩ | ⟨i, -, he⟩⟩⟩ := step_next h
  · exact .markRefused s.popTurn
  · exact hostTurn_keepsMarks s.popTurn
  · exact .of_eq ⟨rfl, rfl⟩ rfl
  · exact .of_eq ⟨rfl, rfl⟩ rfl
  · exact exec_keepsMarks he

end Sys2Proof.Machine
end

section
/-!
PROOFS of the reset-and-hazards family (70_reset_and_hazards.md), the hazards between host and engine: who changes the
operands of a command, and how many host turns may precede its completion.
-/

namespace Sys2Proof.Machine

/-! ## When a configuration register changes -/

theorem SameEngine.sameOperands {s t : State} (h : SameEngine s t) : SameOperands s t := by
  rw [h]
  exact ⟨rfl, rfl, rfl, rfl, rfl, rfl⟩

theorem writeReg_sameOperands {r : RegName} (hr : r ∉ configRegs) (s : State) (w : Word) :
    SameOperands s (s.writeReg w r) := by
  cases r with
  | cmd | status | resultLen => exact ⟨rfl, rfl, rfl, rfl, rfl, rfl⟩
  | srcAddr | srcLen | dstAddr | dstCap | keyAddr | keyLen => exact absurd (by decide) hr

/-- A host operation keeps the operands unless it writes a configuration register while idle or resets (R34, R38). -/
theorem hostOp_sameOperands_cases (s : State) (op : HostOp) :
    SameOperands s (s.hostOp op) ∨
      (s.busy = false ∧ ∃ r ∈ configRegs, ∃ w, op = .regWrite 4 (offsetOf r) w) ∨ op = .reset := by
  obtain h | ⟨hb, r, w, hop, h⟩ | ⟨-, a, b, -, -, h⟩ | ⟨hop, -⟩ := hostOp_cases s op
  · exact .inl h.sameOperands
  · by_cases hr : r ∈ configRegs
    · exact .inr (.inl ⟨hb, r, hr, w, hop⟩)
    · exact .inl (h ▸ writeReg_sameOperands hr s w)
  · exact .inl (h ▸ ⟨rfl, rfl, rfl, rfl, rfl, rfl⟩)
  · exact .inr (.inr hop)

theorem exec_sameOperands {i : Instr} {s t : State} (h : exec i s = .next t) : SameOperands s t := by
  obtain ⟨f, n, -, ⟨d, rfl⟩ | ⟨out, -, rfl⟩⟩ := exec_next h <;> exact ⟨rfl, rfl, rfl, rfl, rfl, rfl⟩

/-- The configuration registers lie at 0x008 to 0x01C (R31). -/
theorem offsetOf_configRegs : ∀ r ∈ configRegs, 0x008 ≤ offsetOf r ∧ offsetOf r ≤ 0x01C := by decide

/-- Settles O40: the engine keeps the operands, and a host operation changes them only as `hostOp_sameOperands_cases`
says. -/
theorem operandsChangeOnlyByHost : Obligations.OperandsChangeOnlyByHost := by
  intro s t h hne
  have hsame : SameOperands s s.popTurn := ⟨rfl, rfl, rfl, rfl, rfl, rfl⟩
  obtain ⟨-, rfl⟩ | ⟨-, ⟨ha, rfl⟩ | ⟨-, -, rfl⟩ | ⟨-, -, w, -, ⟨e, -, rfl⟩ | ⟨i, -, he⟩⟩⟩ := step_next h
  · exact absurd hsame hne
  · refine ⟨ha, ?_⟩
    obtain ⟨-, ht⟩ | ⟨op, rest, hscript, ht⟩ := hostTurn_cases s.popTurn <;> rw [ht] at hne
    · exact absurd hsame hne
    · obtain hops | ⟨hb, r, hr, w, rfl⟩ | rfl := hostOp_sameOperands_cases { s.popTurn with script := rest } op
      · exact absurd hops hne
      · exact .inl ⟨hb, offsetOf r, w, rest, hscript, offsetOf_configRegs r hr⟩
      · exact .inr ⟨rest, hscript⟩
  · exact absurd hsame hne
  · exact absurd hsame hne
  · exact absurd (exec_sameOperands (s := s.popTurn) he) hne

/-! ## Host turns while BUSY = 1 -/

theorem SameEngine.trans {s t u : State} (hst : SameEngine s t) (htu : SameEngine t u) : SameEngine s u := by
  rw [SameEngine, htu, hst]

theorem SameEngine.withTurns {s t : State} (h : SameEngine s t) (l : List Agent) :
    SameEngine { s with turns := l } { t with turns := l } := by
  rw [h]
  exact rfl

/-- While BUSY = 1 a host operation other than a reset leaves the engine alone (R38, R71). -/
theorem hostOp_sameEngine_of_busy {s : State} {op : HostOp} (hb : s.busy = true) (hop : op ≠ .reset) :
    SameEngine s (s.hostOp op) := by
  obtain h | ⟨hidle, -⟩ | ⟨hidle, -⟩ | ⟨hreset, -⟩ := hostOp_cases s op
  · exact h
  · exact absurd (hb.symm.trans hidle) Bool.noConfusion
  · exact absurd (hb.symm.trans hidle) Bool.noConfusion
  · exact absurd hreset hop

/-- A host's turn while BUSY = 1, over a script without a reset: the engine is left alone and the script still has none. -/
theorem hostTurn_of_busy {s : State} (hb : s.busy = true) (hs : .reset ∉ s.script) :
    SameEngine s s.hostTurn ∧ .reset ∉ s.hostTurn.script := by
  obtain ⟨-, h⟩ | ⟨op, rest, hscript, h⟩ := hostTurn_cases s <;> rw [h]
  · exact ⟨.refl s, hs⟩
  · rw [hscript, List.mem_cons, not_or] at hs
    obtain ⟨hop, hrest⟩ := hs
    exact ⟨hostOp_sameEngine_of_busy (s := { s with script := rest }) hb (Ne.symm hop),
      mt reset_mem_script_of_hostOp hrest⟩

/-- A step under a legal configuration with the host's turn listed is that turn (R81). -/
theorem run_succ_of_host {s : State} {l : List Agent} (hw : s.config.wf = true) (ht : s.turns = .host :: l) (n : Nat) :
    core.run (n + 1) s = core.run n s.popTurn.hostTurn := by
  have hstep : core.step s = .next s.popTurn.hostTurn := step_of_host hw (by rw [State.nextAgent, ht])
  simp only [Host.Core.run, hstep]

/-- Induction on the host turns listed: each leaves the engine alone, and the list ends with the last. -/
theorem run_hostTurns_of_busy (n : Nat) {s : State} (hw : s.config.wf = true) (hb : s.busy = true)
    (ht : s.turns = List.replicate n .host) (hs : .reset ∉ s.script) :
    ∃ t, core.run n s = .next t ∧ SameEngine { s with turns := [] } t := by
  induction n generalizing s with
  | zero =>
    refine ⟨s, rfl, ?_⟩
    rw [← show s.turns = [] from ht]
    exact .refl s
  | succ n ih =>
    rw [List.replicate_succ] at ht
    obtain ⟨hturn, hscript⟩ := hostTurn_of_busy (s := s.popTurn) hb hs
    obtain ⟨t, hrun, hsame⟩ := ih (s := s.popTurn.hostTurn) (by rw [hturn]; exact hw) (by rw [hturn]; exact hb)
      (by rw [hturn]; exact congrArg List.tail ht) hscript
    exact ⟨t, (run_succ_of_host hw ht n).trans hrun, (hturn.withTurns []).trans hsame⟩

theorem hostTurn_of_statusRead {s : State} {rest : List HostOp} (hs : s.script = .regRead 4 0x004 :: rest) :
    s.hostTurn = { s with script := rest, responses := .word 0x004 (statusWord s) :: s.responses } :=
  (hostTurn_of_cons hs).trans (hostRegRead_offsetOf { s with script := rest } .status)

/-- Induction on the STATUS reads: each answers STATUS, which none of them changes (R77), and takes one listed turn. -/
theorem run_statusReads_of_statusWord (n : Nat) {s : State} {rest : List HostOp} (hw : s.config.wf = true)
    (hstatus : statusWord s = 1#32) (ht : s.turns = List.replicate n .host)
    (hs : s.script = List.replicate n (.regRead 4 0x004) ++ rest) :
    core.run n s = .next { s with
      turns := [], script := rest, responses := List.replicate n (.word 0x004 1#32) ++ s.responses } := by
  induction n generalizing s with
  | zero =>
    rw [← show s.turns = [] from ht, ← show s.script = rest from hs]
    rfl
  | succ n ih =>
    rw [List.replicate_succ] at ht
    rw [List.replicate_succ, List.cons_append] at hs
    have hturn := hostTurn_of_statusRead (s := s.popTurn) hs
    rw [show statusWord s.popTurn = 1#32 from hstatus] at hturn
    rw [run_succ_of_host hw ht n, hturn]
    refine (ih (s := { s.popTurn with script := _, responses := _ }) hw hstatus (congrArg List.tail ht) rfl).trans ?_
    rw [List.replicate_succ', List.append_assoc]
    rfl

/-- Settles O42: past the listed turns BUSY is still 1, so the engine moves. -/
theorem hostTurnsMayPrecedeCompletion : Obligations.HostTurnsMayPrecedeCompletion := by
  intro s n hw hb ht
  refine ⟨fun hs => ?_, fun rest hinv hs => ?_⟩
  · obtain ⟨t, hrun, hsame⟩ := run_hostTurns_of_busy n hw hb ht hs
    refine ⟨t, hrun, ?_, hsame⟩
    rw [hsame]
    exact if_pos hb
  · obtain ⟨-, hlegal, -, -⟩ := hinv
    obtain ⟨hstatus, -⟩ := statusWord_of_busy hlegal hb
    exact run_statusReads_of_statusWord n hw hstatus ht hs

end Sys2Proof.Machine
end
